-- ==== Sys2Proof/Word.lean ====
section
/-!
DEFINITION. The machine's widths (00_scope R8: every value is unsigned).
-/
namespace Sys2Proof

/-- A `u8`: a packet register, a buffer byte, a data operand (R8). -/
abbrev Byte := BitVec 8

/-- A `u16`: the declared length, the payload counter, the value of `CKSUM` (R8, R14, R19). -/
abbrev Half := BitVec 16

/-- A `u32`: the request field `a` and the response field `c` (R52, R57). -/
abbrev Quad := BitVec 32

/-- A 64-bit request or response word (R52, R57). -/
abbrev Word64 := BitVec 64

end Sys2Proof
end

