-- ==== Sys2Proof/Config.lean ====
section
/-!
DEFINITION. The implementation parameters (00_scope R6) and the free values, called draws by the
spec (00_scope R7, 43_checksum R100).
-/
namespace Sys2Proof

/-- How the checksum treats payload indices at or above `CAP` when the declared length exceeds it
(R6, R100). -/
inductive ChkOverrun where
  /-- `TRUNCATE`, the spec's default: only `PAY[0 .. CAP-1]` is stepped. -/
  | truncate
  /-- `DRAW`: the pair is two free bytes. -/
  | draw
  deriving DecidableEq, Repr

/-- The parameters of R6, fixed at construction (R133). A state carries them in one field that no
operation writes, so a statement about every state is about every configuration.
DESIGN CHOICE (safe): held in `State` because the step takes a state only; log 2. -/
structure Config where
  /-- `HAS_BUF`: a backing payload buffer was supplied at construction. -/
  hasBuf : Bool
  /-- `CAP`: the buffer's capacity in bytes; meaningful only with `hasBuf`. -/
  cap : Nat
  /-- `M1`: the first framing marker sentinel. -/
  m1 : Byte
  /-- `M2`: the second framing marker sentinel. -/
  m2 : Byte
  /-- `CHK_OVERRUN`. -/
  chkOverrun : ChkOverrun
  deriving DecidableEq, Repr

/-- How many payload bytes exist: `CAP` with a buffer, none without (R20, R21, R28). -/
def Config.payBytes (c : Config) : Nat := if c.hasBuf then c.cap else 0

/-- `OVERHEAD`: the number of non-payload bytes of a frame (R6, R48). -/
def overhead : Nat := 8

/-- The configuration of `State.reset`: the instantiation of 95_test_vectors.
DESIGN CHOICE (unsafe): the spec leaves `HAS_BUF`, `CAP`, `M1` and `M2` open; log 2. -/
def Config.vectors : Config :=
  { hasBuf := true, cap := 8, m1 := 0xB5, m2 := 0x62, chkOverrun := .truncate }

/-- `draw_dummy` (R7, R108): the byte an indexed read returns without a buffer, a free value for
each use. The argument is the state's counter of uses. DESIGN CHOICE (safe): log 4. -/
opaque Config.drawDummy : Nat → Byte

/-- `draw_overrun(i)` (R7, R93): the byte bulk serialization emits at payload index `i ≥ CAP`, a free
value for each use and index. Arguments: the counter of uses, then `i`. DESIGN CHOICE (safe): log 4. -/
opaque Config.drawOverrun : Nat → Nat → Byte

/-- The first of the two free bytes of a checksum under `DRAW` (R96, R100). DESIGN CHOICE (safe): log 4. -/
opaque Config.drawCkA : Nat → Byte

/-- The second of the two free bytes of a checksum under `DRAW` (R96, R100). DESIGN CHOICE (safe): log 4. -/
opaque Config.drawCkB : Nat → Byte

end Sys2Proof
end

