-- ==== Sys2Proof/Syntax.lean ====
section
/-!
DEFINITION. The operations of the request interface, one constructor per row of
spec/opcode_table.json (30_encoding R53), with their operands as names and numbers.
-/
namespace Sys2Proof

/-- The eight packet registers, in wire order (10_state R13, 30_encoding R54). -/
inductive Reg where
  | m1 | m2 | cls | id | lenLo | lenHi | ckA | ckB
  deriving DecidableEq, Repr

/-- The two units a request can be presented to (R53, column "unit"). -/
inductive BlockUnit where
  /-- The composed block: the codec with its own FSM. -/
  | codec
  /-- The standalone FSM leaf. -/
  | fsm
  deriving DecidableEq, Repr

/-- One operation with its operands (R53). An index or a capacity is a natural number; that the
32-bit field `a` can spell it is checked in WellFormed. DESIGN CHOICE (safe): log 16. -/
inductive Instr where
  /-- `INIT` (R113). -/
  | init
  /-- `DESER d` (R67). -/
  | deser (d : Byte)
  /-- `SERB` (R80). -/
  | serb
  /-- `SERN n` (R90). -/
  | sern (n : Nat)
  /-- `UPDATE` (R101). -/
  | update
  /-- `CKSUM` (R102). -/
  | cksum
  /-- `VALID` (R103). -/
  | valid
  /-- `PAYRD i` (R106). -/
  | payrd (i : Nat)
  /-- `PAYWR i, d` (R109). -/
  | paywr (i : Nat) (d : Byte)
  /-- `FLDRD reg` (R111). -/
  | fldrd (r : Reg)
  /-- `FLDWR reg, d` (R112). -/
  | fldwr (r : Reg) (d : Byte)
  /-- `CURRENT` (R62). -/
  | current
  /-- `ADVANCE` (R63). -/
  | advance
  /-- `RESET` (R64). -/
  | reset
  deriving DecidableEq, Repr

end Sys2Proof
end

