-- ==== Sys2Proof/Machine/State.lean ====
section
/-!
DEFINITION. The machine's state as plain data (10_state R13 to R27), the reasons it stops, and the
state right after reset.
-/
namespace Sys2Proof.Machine

/-- The FSM cursor: nine states in wire order (10_state R16, 30_encoding R51). -/
inductive Cursor where
  | marker1 | marker2 | cls | id | lenLo | lenHi | payload | ck1 | ck2
  deriving DecidableEq, Repr

/-- The packet register file: eight 8-bit registers (R13). -/
structure PacketRegs where
  m1 : Byte
  m2 : Byte
  cls : Byte
  id : Byte
  lenLo : Byte
  lenHi : Byte
  ckA : Byte
  ckB : Byte
  deriving DecidableEq, Repr

/-- A byte space, `PAY` or `DST` (20_memory R28): (index, byte) pairs with rising indices, no entry
equal to `unlistedByte`. -/
abbrev Memory := List Host.Cell

/-- What an index that is not listed reads as. Every content can be written as a list, so this fixes
no content; it fixes only what `State.reset` holds. DESIGN CHOICE (unsafe): log 3. -/
def unlistedByte : Byte := 0x00

/-- The destination buffer `DST` of one bulk serialization: its size `n`, and its bytes at the indices
`0 .. n-1` (20_memory R28). -/
structure Destination where
  size : Nat
  bytes : Memory
  deriving DecidableEq, Repr

/-- The reasons of a model fault (60_exceptions R119). -/
inductive FaultReason where
  /-- `F_NOT_INIT`, code 1: raised by every operation but `INIT` (composed block) or `RESET` (standalone
  FSM) before the first of those (R120). Safe: the model has fewer runs. -/
  | notInit
  /-- `F_RESERVED`, code 2: raised for an illegal request word or an operation the unit does not
  accept (R121). Safe: the model has fewer runs. -/
  | reserved
  deriving DecidableEq, Repr

/-- What the caller does next (20_memory R36, 30_encoding R58). DESIGN CHOICE (safe): log 7. -/
inductive CallerAction where
  /-- Present a request word to a unit. `supplied` holds the bytes of the destination buffer that the
  caller supplies with a `SERN` (R28); no other request has one (log 9). -/
  | request (unit : BlockUnit) (word : Word64) (supplied : Memory)
  /-- Write byte `i` of `PAY` directly, between requests (R36). -/
  | writePay (i : Nat) (v : Byte)
  deriving DecidableEq, Repr

/-- The state of the composed block, of the standalone FSM and of what their caller holds. -/
structure State where
  /-- The parameters, written by no operation (R6, R23). -/
  cfg : Config
  /-- The packet registers (R13). -/
  regs : PacketRegs
  /-- `cur`, the composed block's cursor (R16). -/
  cur : Cursor
  /-- `cnt`, the payload counter (R19). -/
  cnt : Half
  /-- `PAY`, the borrowed payload buffer (R20). -/
  pay : Memory
  /-- `live`: `INIT` has been issued (R24). -/
  live : Bool
  /-- The standalone FSM's `cur` (40_fsm R62 to R64). -/
  fsmCur : Cursor
  /-- `fsm_live`: `RESET` has been issued to the standalone FSM (R24). -/
  fsmLive : Bool
  /-- `fault`: none, or the model fault recorded (R25). -/
  fault : Option FaultReason
  /-- The response word of the last request, if it gave one (R57, R58). -/
  response : Option Word64
  /-- `DST`: the destination of the bulk serialization in progress; none between requests and during
  any other request (R28). -/
  dst : Option Destination
  /-- The caller's destination buffer as the last request handed it back, if it had one: the caller's
  memory, which no operation reads; the model's own field, log 9. -/
  delivered : Option Destination
  /-- The unit the request in progress is addressed to: the model's own field; log 5. -/
  target : BlockUnit
  /-- The caller's actions still to come, oldest first: the model's own field; log 7. -/
  inbox : List CallerAction
  /-- How many steps have used a free value: the model's own field; log 4. -/
  draws : Nat
  deriving DecidableEq, Repr

/-- Why a step stops with a fault. -/
inductive Fault where
  /-- A model fault was recorded by an earlier request: no later request has a meaning (R25, R119).
  Raised by every step and every operation on such a state. Safe: the run ends. -/
  | stopped (r : FaultReason)
  /-- The caller writes directly to a byte of `PAY` that does not exist (R28, R36). Raised by the step
  that takes such a caller action. Safe: the run ends. -/
  | noSuchByte
  deriving DecidableEq, Repr

/-- Why the model has no meaning for what it is asked. -/
inductive Refusal where
  /-- The instruction has no meaning yet; raised by no arm of `exec` now. Safe. -/
  | notModelled (mnemonic : String)
  /-- The configuration is refused before any request: a buffer of capacity 0, or `CAP` above 2^32 - 1
  (R122). Raised by every step and every operation under it. Safe: no run exists. -/
  | configuration
  deriving DecidableEq, Repr

/-- The packet registers after `INIT` (R26, 45_init R113). -/
def PacketRegs.primed (c : Config) : PacketRegs :=
  { m1 := c.m1, m2 := c.m2, cls := 0x00, id := 0x00, lenLo := 0x00, lenHi := 0x00, ckA := 0x00,
    ckB := 0x00 }

/-- Between construction and the first `INIT` or `RESET` (R26, R133, R135): `live`, `fsm_live` are
false and no fault is recorded; what the spec leaves unspecified is an argument. -/
def State.powerOn (c : Config) (regs : PacketRegs) (cur : Cursor) (cnt : Half) (fsmCur : Cursor)
    (pay : Memory) : State :=
  { cfg := c, regs := regs, cur := cur, cnt := cnt, pay := pay, live := false, fsmCur := fsmCur,
    fsmLive := false, fault := none, response := none, dst := none, delivered := none,
    target := .codec, inbox := [], draws := 0 }

/-- Right after reset: the power-on column of R26, which is the model's initial state (R133). Both units
still wait for their first `INIT` or `RESET` (R24, R135). What R26 leaves unspecified has a value here
all the same: zero, and the first state for a cursor. DESIGN CHOICE (unsafe): log 1; the configuration is
that of log 2, the empty buffer that of log 3. -/
def State.reset : State :=
  State.powerOn Config.vectors
    { m1 := 0x00, m2 := 0x00, cls := 0x00, id := 0x00, lenLo := 0x00, lenHi := 0x00, ckA := 0x00,
      ckB := 0x00 }
    .marker1 0 .marker1 []

end Sys2Proof.Machine
end

