-- ==== Sys2Proof/WellFormed.lean ====
section
/-!
DEFINITION. What the encoding and the platform permit: operands the request word can spell (R52) and
configurations the spec gives a meaning (60_exceptions R122).
-/
namespace Sys2Proof

/-- A number the 32-bit request field `a` can carry (R52; 93 I7: any other cannot be spelled). -/
def fitsA (n : Nat) : Bool := decide (n < 2 ^ 32)

/-- The operands of `i` can be spelled in a request word (R52). -/
def Instr.wf : Instr → Bool
  | .sern n => fitsA n
  | .payrd i => fitsA i
  | .paywr i _ => fitsA i
  | .init => true
  | .deser _ => true
  | .serb => true
  | .update => true
  | .cksum => true
  | .valid => true
  | .fldrd _ => true
  | .fldwr _ _ => true
  | .current => true
  | .advance => true
  | .reset => true

/-- The configuration has a meaning: `CAP ≤ 2^32 - 1`, and not 0 with a buffer (R6, R122). -/
def Config.wf (c : Config) : Bool :=
  (!c.hasBuf || decide (1 ≤ c.cap)) && decide (c.cap ≤ 2 ^ 32 - 1)

end Sys2Proof
end

