-- ==== Sys2Proof/Machine/Ops.lean ====
section
/-!
DEFINITION. The named operations over memory, registers, cursor and counter, and raising a model
fault: what 00_scope R9 and R10 name.
-/
namespace Sys2Proof.Machine

/-! ### Byte spaces -/

/-- `MemRead(_, a, 1)` (R9, 20_memory R37). -/
def Memory.read : Memory → Nat → Byte
  | [], _ => unlistedByte
  | (k, x) :: m, a => if a = k then x else Memory.read m a

/-- `MemWrite(_, a, 1, v)` (R9, R37), keeping the canonical form. -/
def Memory.write : Memory → Nat → Byte → Memory
  | [], a, v => if v = unlistedByte then [] else [(a, v)]
  | (k, x) :: m, a, v =>
    if a < k then (if v = unlistedByte then (k, x) :: m else (a, v) :: (k, x) :: m)
    else if a = k then (if v = unlistedByte then m else (a, v) :: m)
    else (k, x) :: Memory.write m a v

/-- Write the bytes one after another from index `a` on. -/
def Memory.writeAll : Memory → Nat → List Byte → Memory
  | m, _, [] => m
  | m, a, v :: vs => Memory.writeAll (m.write a v) (a + 1) vs

/-- Indices rise from `lo` on and no entry equals what an unlisted index reads as. -/
def Memory.wfFrom : Nat → Memory → Bool
  | _, [] => true
  | lo, (k, x) :: m => decide (lo ≤ k) && (x != unlistedByte) && Memory.wfFrom (k + 1) m

/-- The canonical form of a byte space. -/
def Memory.wf (m : Memory) : Bool := Memory.wfFrom 0 m

/-- Every listed index is below `n`. -/
def Memory.below (n : Nat) (m : Memory) : Bool := m.all fun c => decide (c.1 < n)

/-- The bytes at the indices below `n`. -/
def Memory.keepBelow (n : Nat) (m : Memory) : Memory := m.filter fun c => decide (c.1 < n)

/-- A destination of `n` bytes with the caller's contents (20_memory R28). -/
def Destination.supply (n : Nat) (m : Memory) : Destination := { size := n, bytes := m.keepBelow n }

/-- The bytes are in canonical form and at indices that exist (R28). -/
def Destination.wf (d : Destination) : Bool := d.bytes.wf && d.bytes.below d.size

/-! ### Cursor -/

/-- `next(s)`: the next state in wire order, from the last to the first (40_fsm R63). -/
def Cursor.next : Cursor → Cursor
  | .marker1 => .marker2
  | .marker2 => .cls
  | .cls => .id
  | .id => .lenLo
  | .lenLo => .lenHi
  | .lenHi => .payload
  | .payload => .ck1
  | .ck1 => .ck2
  | .ck2 => .marker1

/-- The ordinal of a state, 0 .. 8 (30_encoding R51). -/
def Cursor.ordinal : Cursor → Nat
  | .marker1 => 0
  | .marker2 => 1
  | .cls => 2
  | .id => 3
  | .lenLo => 4
  | .lenHi => 5
  | .payload => 6
  | .ck1 => 7
  | .ck2 => 8

/-! ### Packet registers -/

/-- `R.r` (R9). -/
def PacketRegs.get (p : PacketRegs) : Reg → Byte
  | .m1 => p.m1
  | .m2 => p.m2
  | .cls => p.cls
  | .id => p.id
  | .lenLo => p.lenLo
  | .lenHi => p.lenHi
  | .ckA => p.ckA
  | .ckB => p.ckB

/-- `R.r <- v` (R9). -/
def PacketRegs.set (p : PacketRegs) (r : Reg) (v : Byte) : PacketRegs :=
  match r with
  | .m1 => { p with m1 := v }
  | .m2 => { p with m2 := v }
  | .cls => { p with cls := v }
  | .id => { p with id := v }
  | .lenLo => { p with lenLo := v }
  | .lenHi => { p with lenHi := v }
  | .ckA => { p with ckA := v }
  | .ckB => { p with ckB := v }

/-- `len`, computed from the two length registers at each read (10_state R14, 20_memory R31). -/
def PacketRegs.len (p : PacketRegs) : Half :=
  p.lenLo.zeroExtend 16 ||| (p.lenHi.zeroExtend 16 <<< 8)

/-- `len` as an exact natural number. -/
def State.lenNat (s : State) : Nat := s.regs.len.toNat

/-! ### Updates of a state, one for each thing an operation writes -/

/-- `R.r <- v`. -/
def State.setReg (s : State) (r : Reg) (v : Byte) : State := { s with regs := s.regs.set r v }

/-- `cur <- c`. -/
def State.setCur (s : State) (c : Cursor) : State := { s with cur := c }

/-- `FSM_ADVANCE` inside a codec rule (R10, 40_fsm R66). -/
def State.fsmAdvance (s : State) : State := s.setCur s.cur.next

/-- `FSM_RESET` inside a codec rule (R10, R66). -/
def State.fsmReset (s : State) : State := s.setCur .marker1

/-- `cnt <- v`. -/
def State.setCnt (s : State) (v : Half) : State := { s with cnt := v }

/-- `MemWrite(PAY, i, 1, v)`. -/
def State.writePay (s : State) (i : Nat) (v : Byte) : State := { s with pay := s.pay.write i v }

/-- `MemWrite(DST, a, 1, _)` for each byte, from offset `a` on. -/
def State.writeDst (s : State) (a : Nat) (vs : List Byte) : State :=
  { s with dst := s.dst.map fun d => { d with bytes := d.bytes.writeAll a vs } }

/-- The request ends: `DST` exists no longer, and its bytes are the caller's again (R28). -/
def State.handBack (s : State) : State := { s with dst := none, delivered := s.dst }

/-- A free value has been used: the next use takes another (log 4). -/
def State.drew (s : State) : State := { s with draws := s.draws + 1 }

/-- `return (...)`: the response word (R9, R57). -/
def State.reply (s : State) (r : Word64) : State := { s with response := some r }

/-- `raise Fault(reason)`: no response and no other change than `fault <- reason` (60_exceptions
R119). There is no return from it: the state is final (R25, R125). -/
def State.raise (s : State) (r : FaultReason) : State :=
  { s with fault := some r, response := none }

/-- The number of a model fault's reason (R119). -/
def FaultReason.code : FaultReason → Nat
  | .notInit => 1
  | .reserved => 2

/-! ### What stands before every operation -/

/-- A refused configuration has no run (R122) and a recorded model fault is final (R25, R119);
otherwise `k`. -/
def State.permit (s : State) (k : Host.Outcome State Fault Refusal) :
    Host.Outcome State Fault Refusal :=
  if s.cfg.wf then
    match s.fault with
    | none => k
    | some r => .fault (.stopped r)
  else .refused .configuration

/-- `F_NOT_INIT` before the composed block's first `INIT`, otherwise `k` (R120). -/
def State.whenLive (s : State) (k : State) : State := if s.live then k else s.raise .notInit

/-- `F_NOT_INIT` before the standalone FSM's first `RESET`, otherwise `k` (R120). -/
def State.whenFsmLive (s : State) (k : State) : State := if s.fsmLive then k else s.raise .notInit

/-- An operation that only unit `u` accepts: `F_RESERVED` at the other unit, before any other check
(30_encoding R55, R123). -/
def State.onUnit (s : State) (u : BlockUnit) (k : State) : Host.Outcome State Fault Refusal :=
  s.permit (.next (if s.target = u then k else s.raise .reserved))

/-- An operation of the composed block that needs `INIT` first, in the order of R123. -/
def State.onCodec (s : State) (k : State) : Host.Outcome State Fault Refusal :=
  s.onUnit .codec (s.whenLive k)

end Sys2Proof.Machine
end

