-- ==== Sys2Proof/Machine/Flags.lean ====
section
/-!
DEFINITION. The block has no flags (10_state R22): every indication is a field of the response word
(30_encoding R57), built and read here.
-/
namespace Sys2Proof.Machine

/-- The response word: `r[0]` ok, `r[7:1]` zero, `r[15:8]` b, `r[31:16]` h, `r[63:32]` c (R57). -/
def packResponse (ok : Bool) (b : Byte) (h : Half) (c : Quad) : Word64 :=
  c ++ h ++ b ++ (0 : BitVec 7) ++ BitVec.ofBool ok

/-- `ok`, the Boolean result (R57). -/
def okOf (r : Word64) : Bool := r.getLsbD 0

/-- `b`, the byte result (R57). -/
def byteOf (r : Word64) : Byte := r.extractLsb' 8 8

/-- `h`, the 16-bit result (R57). -/
def halfOf (r : Word64) : Half := r.extractLsb' 16 16

/-- `c`, the count (R57). -/
def countOf (r : Word64) : Quad := r.extractLsb' 32 32

/-- `return ()`: every field zero. -/
def respondNone : Word64 := packResponse false 0 0 0

/-- `return (ok = ...)`. -/
def respondOk (ok : Bool) : Word64 := packResponse ok 0 0 0

/-- `return (b = ...)`. -/
def respondByte (b : Byte) : Word64 := packResponse false b 0 0

/-- `return (ok = ..., b = ...)`. -/
def respondEmit (ok : Bool) (b : Byte) : Word64 := packResponse ok b 0 0

/-- `return (h = ...)`. -/
def respondHalf (h : Half) : Word64 := packResponse false 0 h 0

/-- `return (c = ...)`: a count of at most 65543 (R49) in 32 bits. -/
def respondCount (c : Nat) : Word64 := packResponse false 0 0 (BitVec.ofNat 32 c)

end Sys2Proof.Machine
end

