-- ==== Sys2Proof/Machine/Operands.lean ====
section
/-!
DEFINITION. The operand forms: a payload index (44_access R107), the payload step's condition
(41_deserialize R72) and the bytes of a frame (30_encoding R45).
-/
namespace Sys2Proof.Machine

/-- The effective index of an indexed access: an index at or above `CAP` is clamped to `CAP - 1`
(R107). -/
def clampIndex (cap i : Nat) : Nat := if i < cap then i else cap - 1

/-- `HAS_BUF and cnt < len and cnt < CAP`, tested once by a payload step (R72, R83, R123). -/
def State.payReady (s : State) : Bool :=
  s.cfg.hasBuf && decide (s.cnt.toNat < s.lenNat) && decide (s.cnt.toNat < s.cfg.cap)

/-- The declared length exceeds the capacity of a buffer that exists (glossary R11, R100). -/
def State.overrun (s : State) : Bool := s.cfg.hasBuf && decide (s.cfg.cap < s.lenNat)

/-- How many payload bytes the checksum covers and a payload step can reach: `min(len, CAP)` with a
buffer, none without (R96, R98). -/
def State.covered (s : State) : Nat := if s.cfg.hasBuf then min s.lenNat s.cfg.cap else 0

/-- The first `n` bytes of `PAY`. -/
def State.payPrefix (s : State) (n : Nat) : List Byte := (List.range n).map s.pay.read

/-- The byte sequence of a frame on the wire, with no padding (R45), from the packet registers and a
payload. -/
def wireFrame (p : PacketRegs) (payload : List Byte) : List Byte :=
  [p.m1, p.m2, p.cls, p.id, p.lenLo, p.lenHi] ++ payload ++ [p.ckA, p.ckB]

end Sys2Proof.Machine
end

