-- ==== Sys2Proof/Machine/Access.lean ====
section
/-!
DEFINITION. Indexed payload access and packet-register access (44_access R106 to R112).
-/
namespace Sys2Proof.Machine

/-- `PAYRD i` (R106): the byte at the clamped index (R107), or a free value without a buffer (R108). -/
def execPayrd (i : Nat) (s : State) : Host.Outcome State Fault Refusal :=
  s.onCodec
    (if s.cfg.hasBuf then s.reply (respondByte (s.pay.read (clampIndex s.cfg.cap i)))
     else s.drew.reply (respondByte (Config.drawDummy s.draws)))

/-- `PAYWR i, d` (R109): write the byte at the clamped index (R107); without a buffer no state changes
(R110). -/
def execPaywr (i : Nat) (d : Byte) (s : State) : Host.Outcome State Fault Refusal :=
  s.onCodec
    (if s.cfg.hasBuf then (s.writePay (clampIndex s.cfg.cap i) d).reply respondNone
     else s.reply respondNone)

/-- `FLDRD reg` (R111). -/
def execFldrd (r : Reg) (s : State) : Host.Outcome State Fault Refusal :=
  s.onCodec (s.reply (respondByte (s.regs.get r)))

/-- `FLDWR reg, d` (R112). -/
def execFldwr (r : Reg) (d : Byte) (s : State) : Host.Outcome State Fault Refusal :=
  s.onCodec ((s.setReg r d).reply respondNone)

end Sys2Proof.Machine
end

