-- ==== Sys2Proof/Machine/Checksum.lean ====
section
/-!
DEFINITION. The checksum function and `UPDATE`, `CKSUM`, `VALID` (43_checksum R96 to R105).
-/
namespace Sys2Proof.Machine

/-- `step(x)`: `a = a + x`, then `b = b + a`, both mod 256 (R96). -/
def ckStep (p : Byte × Byte) (x : Byte) : Byte × Byte := (p.1 + x, p.2 + (p.1 + x))

/-- The pair after stepping the bytes in order from (0x00, 0x00) (R96; the starting value is the
spec's decision D32, log 11). -/
def ckPair (xs : List Byte) : Byte × Byte := xs.foldl ckStep (0x00, 0x00)

/-- The contributing bytes in order: class, id, both length bytes, then the payload bytes that exist
up to the declared length (R96 to R99). -/
def State.coveredBytes (s : State) : List Byte :=
  [s.regs.cls, s.regs.id, s.regs.lenLo, s.regs.lenHi] ++ s.payPrefix s.covered

/-- The pair is two free bytes: a declared length above the capacity under `DRAW` (R96, R100). -/
def State.ckFree (s : State) : Bool := s.overrun && s.cfg.chkOverrun == .draw

/-- `ChecksumPair()` (R96). -/
def State.checksumPair (s : State) : Byte × Byte :=
  if s.ckFree then (Config.drawCkA s.draws, Config.drawCkB s.draws) else ckPair s.coveredBytes

/-- Count a use of the free checksum bytes (log 4). -/
def State.drewChecksum (s : State) : State := if s.ckFree then s.drew else s

/-- `zext_16(a) | (zext_16(b) << 8)` (R102, 20_memory R32). -/
def packPair (p : Byte × Byte) : Half := p.1.zeroExtend 16 ||| (p.2.zeroExtend 16 <<< 8)

/-- `UPDATE` (R101): the computed pair into `ck_a` and `ck_b`. -/
def execUpdate (s : State) : Host.Outcome State Fault Refusal :=
  s.onCodec (((s.drewChecksum.setReg .ckA s.checksumPair.1).setReg .ckB s.checksumPair.2).reply
    respondNone)

/-- `CKSUM` (R102): the computed pair, packed; no state written. -/
def execCksum (s : State) : Host.Outcome State Fault Refusal :=
  s.onCodec (s.drewChecksum.reply (respondHalf (packPair s.checksumPair)))

/-- `VALID` (R103): whether the computed pair equals the stored one; no state written. -/
def execValid (s : State) : Host.Outcome State Fault Refusal :=
  s.onCodec (s.drewChecksum.reply
    (respondOk (decide (s.checksumPair = (s.regs.ckA, s.regs.ckB)))))

end Sys2Proof.Machine
end

