-- ==== Sys2Proof/Machine/Deserialize.lean ====
section
/-!
DEFINITION. `DESER`, incremental byte ingestion (41_deserialize R67 to R79): one definition per arm.
-/
namespace Sys2Proof.Machine

/-- `DeserM1(d)` (R68): accept the first sentinel, drop anything else. -/
def State.deserM1 (s : State) (d : Byte) : State :=
  if d = s.cfg.m1 then (s.setReg .m1 d).fsmAdvance.reply (respondOk false)
  else s.reply (respondOk false)

/-- `DeserM2(d)` (R69): accept the second sentinel; anything else is consumed and the search restarts. -/
def State.deserM2 (s : State) (d : Byte) : State :=
  if d = s.cfg.m2 then (s.setReg .m2 d).fsmAdvance.reply (respondOk false)
  else s.fsmReset.reply (respondOk false)

/-- `DeserHdr(reg, d)` (R70). -/
def State.deserHdr (s : State) (r : Reg) (d : Byte) : State :=
  (s.setReg r d).fsmAdvance.reply (respondOk false)

/-- `DeserLenHi(d)` (R71): store, reset the payload counter, advance. -/
def State.deserLenHi (s : State) (d : Byte) : State :=
  ((s.setReg .lenHi d).setCnt 0).fsmAdvance.reply (respondOk false)

/-- `DeserCk1(d)` (R74). -/
def State.deserCk1 (s : State) (d : Byte) : State :=
  (s.setReg .ckA d).fsmAdvance.reply (respondOk false)

/-- `DeserPay(d)`: the storing case (R72), or the fall-through of the same byte to the first checksum
byte (R73). -/
def State.deserPay (s : State) (d : Byte) : State :=
  if s.payReady then
    ((s.writePay s.cnt.toNat d).setCnt (s.cnt + 1)).reply (respondOk false)
  else s.fsmAdvance.deserCk1 d

/-- `DeserCk2(d)` (R75): store, reset the cursor, signal completion. -/
def State.deserCk2 (s : State) (d : Byte) : State :=
  (s.setReg .ckB d).fsmReset.reply (respondOk true)

/-- The arm of `DESER` for each cursor state (R67). -/
def State.ingest (s : State) (d : Byte) : State :=
  match s.cur with
  | .marker1 => s.deserM1 d
  | .marker2 => s.deserM2 d
  | .cls => s.deserHdr .cls d
  | .id => s.deserHdr .id d
  | .lenLo => s.deserHdr .lenLo d
  | .lenHi => s.deserLenHi d
  | .payload => s.deserPay d
  | .ck1 => s.deserCk1 d
  | .ck2 => s.deserCk2 d

/-- `DESER d` (R67). -/
def execDeser (d : Byte) (s : State) : Host.Outcome State Fault Refusal :=
  s.onCodec (s.ingest d)

end Sys2Proof.Machine
end

