-- ==== Sys2Proof/Machine/Fsm.lean ====
section
/-!
DEFINITION. `CURRENT`, `ADVANCE`, `RESET` (40_fsm R62 to R66).
-/
namespace Sys2Proof.Machine

/-- `return (b = zext_8(ordinal(cur)))` (R62). -/
def respondCursor (c : Cursor) : Word64 := respondByte (BitVec.ofNat 8 c.ordinal)

/-- The standalone FSM's `cur <- c`. -/
def State.setFsmCur (s : State) (c : Cursor) : State := { s with fsmCur := c }

/-- `CURRENT` (R62), accepted by both units; each reads its own cursor. -/
def execCurrent (s : State) : Host.Outcome State Fault Refusal :=
  match s.target with
  | .codec => s.onCodec (s.reply (respondCursor s.cur))
  | .fsm => s.onUnit .fsm (s.whenFsmLive (s.reply (respondCursor s.fsmCur)))

/-- `ADVANCE` (R63), standalone FSM only. -/
def execAdvance (s : State) : Host.Outcome State Fault Refusal :=
  s.onUnit .fsm (s.whenFsmLive ((s.setFsmCur s.fsmCur.next).reply respondNone))

/-- `RESET` (R64), standalone FSM only; legal at power-on. -/
def execReset (s : State) : Host.Outcome State Fault Refusal :=
  s.onUnit .fsm ({ s.setFsmCur .marker1 with fsmLive := true }.reply respondNone)

end Sys2Proof.Machine
end

