-- ==== Sys2Proof/Machine/Init.lean ====
section
/-!
DEFINITION. `INIT`, the block's reset (45_init R113 to R116, 70_reset_and_hazards R134).
-/
namespace Sys2Proof.Machine

/-- The packet registers, the cursor, the counter and `live` as `INIT` leaves them; `PAY` is not
touched (R113, R114). -/
def State.initialised (s : State) : State :=
  { s with regs := PacketRegs.primed s.cfg, cur := .marker1, cnt := 0, live := true }

/-- `INIT` (R113): legal at power-on and at any cursor position. -/
def execInit (s : State) : Host.Outcome State Fault Refusal :=
  s.onUnit .codec (s.initialised.reply respondNone)

end Sys2Proof.Machine
end

