-- ==== Sys2Proof/Machine/Serialize.lean ====
section
/-!
DEFINITION. `SERB`, incremental emission, and `SERN`, bulk emission (42_serialize R80 to R95).
-/
namespace Sys2Proof.Machine

/-- `SerFix(reg)` (R81): emit the register as it stands and advance. -/
def State.serFix (s : State) (r : Reg) : State :=
  s.fsmAdvance.reply (respondEmit true (s.regs.get r))

/-- `SerLenHi()` (R82): emit, reset the payload counter, advance. -/
def State.serLenHi (s : State) : State :=
  (s.setCnt 0).fsmAdvance.reply (respondEmit true s.regs.lenHi)

/-- `SerCk1()` (R85). -/
def State.serCk1 (s : State) : State :=
  s.fsmAdvance.reply (respondEmit true s.regs.ckA)

/-- `SerPay()`: the emitting case (R83), or the fall-through to the first checksum byte in the same
request (R84). -/
def State.serPay (s : State) : State :=
  if s.payReady then
    (s.setCnt (s.cnt + 1)).reply (respondEmit true (s.pay.read s.cnt.toNat))
  else s.fsmAdvance.serCk1

/-- `SerCk2()` (R86): the last byte; no byte remains after it. -/
def State.serCk2 (s : State) : State :=
  s.fsmReset.reply (respondEmit false s.regs.ckB)

/-- The arm of `SERB` for each cursor state (R80). -/
def State.emit (s : State) : State :=
  match s.cur with
  | .marker1 => s.serFix .m1
  | .marker2 => s.serFix .m2
  | .cls => s.serFix .cls
  | .id => s.serFix .id
  | .lenLo => s.serFix .lenLo
  | .lenHi => s.serLenHi
  | .payload => s.serPay
  | .ck1 => s.serCk1
  | .ck2 => s.serCk2

/-- `SERB` (R80). -/
def execSerb (s : State) : Host.Outcome State Fault Refusal :=
  s.onCodec s.emit

/-- The byte `SERN` emits at payload index `i`: zero without a buffer (R92), the buffer's byte below
`CAP`, a free value at or above it (R93). -/
def State.bulkByte (s : State) (i : Nat) : Byte :=
  if s.cfg.hasBuf then
    if i < s.cfg.cap then s.pay.read i else Config.drawOverrun s.draws i
  else 0x00

/-- The whole frame `SERN` writes: `len + 8` bytes (R90). -/
def State.bulkFrame (s : State) : List Byte :=
  wireFrame s.regs ((List.range s.lenNat).map s.bulkByte)

/-- Count a use of the free overrun bytes (log 4). -/
def State.drewOverrun (s : State) : State := if s.overrun then s.drew else s

/-- What `SERN n` does: nothing and the count 0 when the destination is too small (R91), otherwise the
frame into `DST` from offset 0 and its length (R90, R94). So no byte at or past `n` is written. -/
def State.bulk (s : State) (n : Nat) : State :=
  if n < s.lenNat + overhead then s.reply (respondCount 0)
  else (s.writeDst 0 s.bulkFrame).drewOverrun.reply (respondCount (s.lenNat + overhead))

/-- `SERN n` (R90). -/
def execSern (n : Nat) (s : State) : Host.Outcome State Fault Refusal :=
  s.onCodec (s.bulk n)

end Sys2Proof.Machine
end

