-- ==== Sys2Proof/Machine/Dispatch.lean ====
section
/-!
DEFINITION. One arm per operation of the opcode table.
-/
namespace Sys2Proof.Machine

def exec (i : Instr) (s : State) : Host.Outcome State Fault Refusal :=
  match i with
  | .init => Sys2Proof.Machine.execInit s
  | .deser d => Sys2Proof.Machine.execDeser d s
  | .serb => Sys2Proof.Machine.execSerb s
  | .sern n => Sys2Proof.Machine.execSern n s
  | .update => Sys2Proof.Machine.execUpdate s
  | .cksum => Sys2Proof.Machine.execCksum s
  | .valid => Sys2Proof.Machine.execValid s
  | .payrd k => Sys2Proof.Machine.execPayrd k s
  | .paywr k d => Sys2Proof.Machine.execPaywr k d s
  | .fldrd r => Sys2Proof.Machine.execFldrd r s
  | .fldwr r d => Sys2Proof.Machine.execFldwr r d s
  | .current => Sys2Proof.Machine.execCurrent s
  | .advance => Sys2Proof.Machine.execAdvance s
  | .reset => Sys2Proof.Machine.execReset s

end Sys2Proof.Machine
end

