-- ==== Sys2Proof/Decode.lean ====
section
/-!
DEFINITION. The decoder and the encoder of the 64-bit request word (30_encoding R52 to R56).
-/
namespace Sys2Proof

/-- The five fields of a request word (R52). -/
structure ReqFields where
  op : BitVec 4
  f : BitVec 4
  d : Byte
  z : BitVec 16
  a : Quad
  deriving DecidableEq, Repr

/-- The fields of a word: `op = w[3:0]`, `f = w[7:4]`, `d = w[15:8]`, `z = w[31:16]`,
`a = w[63:32]` (R52). -/
def splitWord (w : Word64) : ReqFields :=
  { op := w.extractLsb' 0 4, f := w.extractLsb' 4 4, d := w.extractLsb' 8 8,
    z := w.extractLsb' 16 16, a := w.extractLsb' 32 32 }

/-- The word of five fields (R52). -/
def joinWord (q : ReqFields) : Word64 := q.a ++ q.z ++ q.d ++ q.f ++ q.op

/-- Why a request word is illegal whichever unit receives it (R55). Every one of these is answered by the
model fault `F_RESERVED` (R121); that is safe: no operation is run. -/
inductive DecodeError where
  /-- `op` is 0x0 or 0xF. -/
  | reservedOp
  /-- `z` is not zero. -/
  | reservedBits
  /-- A field the operation does not use is not zero. -/
  | unusedField
  /-- `f ≥ 8` in `FLDRD` or `FLDWR`. -/
  | reservedSelector
  deriving DecidableEq, Repr

/-- The packet register a selector names; 8 .. 15 are reserved (R54). -/
def regOfSelector (f : BitVec 4) : Option Reg :=
  match f.toNat with
  | 0 => some .m1
  | 1 => some .m2
  | 2 => some .cls
  | 3 => some .id
  | 4 => some .lenLo
  | 5 => some .lenHi
  | 6 => some .ckA
  | 7 => some .ckB
  | _ => none

/-- The selector of a packet register (R54). -/
def selectorOf : Reg → BitVec 4
  | .m1 => 0
  | .m2 => 1
  | .cls => 2
  | .id => 3
  | .lenLo => 4
  | .lenHi => 5
  | .ckA => 6
  | .ckB => 7

/-- Answer `r` when `z` and every field the operation does not use are zero (R52, R55). -/
def ReqFields.using (q : ReqFields) (f d a : Bool) (r : Except DecodeError Instr) :
    Except DecodeError Instr :=
  if q.z ≠ 0 then .error .reservedBits
  else if (!f && q.f != 0) || (!d && q.d != 0) || (!a && q.a != 0) then .error .unusedField
  else r

/-- The operation on the register that `f` selects, if it selects one (R54, R55). -/
def ReqFields.onReg (q : ReqFields) (k : Reg → Instr) : Except DecodeError Instr :=
  match regOfSelector q.f with
  | some r => .ok (k r)
  | none => .error .reservedSelector

/-- The operation a request word asks for, or why it is illegal (R53, R55). -/
def decode (w : Word64) : Except DecodeError Instr :=
  let q := splitWord w
  match q.op.toNat with
  | 0x1 => q.using false false false (.ok .init)
  | 0x2 => q.using false true false (.ok (.deser q.d))
  | 0x3 => q.using false false false (.ok .serb)
  | 0x4 => q.using false false true (.ok (.sern q.a.toNat))
  | 0x5 => q.using false false false (.ok .update)
  | 0x6 => q.using false false false (.ok .cksum)
  | 0x7 => q.using false false false (.ok .valid)
  | 0x8 => q.using false false true (.ok (.payrd q.a.toNat))
  | 0x9 => q.using false true true (.ok (.paywr q.a.toNat q.d))
  | 0xA => q.using true false false (q.onReg .fldrd)
  | 0xB => q.using true true false (q.onReg fun r => .fldwr r q.d)
  | 0xC => q.using false false false (.ok .current)
  | 0xD => q.using false false false (.ok .advance)
  | 0xE => q.using false false false (.ok .reset)
  | _ => .error .reservedOp

/-- The fields of an operation's request word, unused ones zero (R52, R53, R55). -/
def fieldsOf : Instr → ReqFields
  | .init => { op := 0x1, f := 0, d := 0, z := 0, a := 0 }
  | .deser d => { op := 0x2, f := 0, d := d, z := 0, a := 0 }
  | .serb => { op := 0x3, f := 0, d := 0, z := 0, a := 0 }
  | .sern n => { op := 0x4, f := 0, d := 0, z := 0, a := BitVec.ofNat 32 n }
  | .update => { op := 0x5, f := 0, d := 0, z := 0, a := 0 }
  | .cksum => { op := 0x6, f := 0, d := 0, z := 0, a := 0 }
  | .valid => { op := 0x7, f := 0, d := 0, z := 0, a := 0 }
  | .payrd i => { op := 0x8, f := 0, d := 0, z := 0, a := BitVec.ofNat 32 i }
  | .paywr i d => { op := 0x9, f := 0, d := d, z := 0, a := BitVec.ofNat 32 i }
  | .fldrd r => { op := 0xA, f := selectorOf r, d := 0, z := 0, a := 0 }
  | .fldwr r d => { op := 0xB, f := selectorOf r, d := d, z := 0, a := 0 }
  | .current => { op := 0xC, f := 0, d := 0, z := 0, a := 0 }
  | .advance => { op := 0xD, f := 0, d := 0, z := 0, a := 0 }
  | .reset => { op := 0xE, f := 0, d := 0, z := 0, a := 0 }

/-- The request word of an operation (R52, R53). -/
def encode (i : Instr) : Word64 := joinWord (fieldsOf i)

/-- The request word whose low `nbits` bits are those of `w`, every bit above them zero. -/
def tableWord (nbits w : Nat) : Word64 := BitVec.ofNat 64 (w % 2 ^ nbits)

/-- The instruction the decoder reads from a row's word, numbered as spec/opcode_table.json numbers
its bits. -/
def decodeTableWord (nbits w : Nat) : Option Instr :=
  match decode (tableWord nbits w) with
  | .ok i => some i
  | .error _ => none

end Sys2Proof
end

