-- ==== Sys2Proof/Machine/Fetch.lean ====
section
/-!
DEFINITION. Taking the caller's next action (20_memory R36, 30_encoding R58) and putting a request
where the next step takes it.
-/
namespace Sys2Proof.Machine

/-- What the next step is to do. -/
inductive Fetched where
  /-- No action is pending. -/
  | idle
  /-- The action was carried out without an operation. -/
  | done (o : Host.Outcome State Fault Refusal)
  /-- The request word is legal: run the operation on this state. -/
  | run (i : Instr) (s : State)

/-- The destination of an operation: `n` bytes of the caller's for `SERN n`, none for any other (R28). -/
def destinationOf (i : Instr) (supplied : Memory) : Option Destination :=
  match i with
  | .sern n => some (Destination.supply n supplied)
  | .init | .deser _ | .serb | .update | .cksum | .valid | .payrd _ | .paywr _ _ | .fldrd _
  | .fldwr _ _ | .current | .advance | .reset => none

/-- The state in which a request is served: the action taken off the list, the unit it is addressed to
(log 5), and its own destination, if it has one (R28; log 9). -/
def State.serve (s : State) (u : BlockUnit) (dst : Option Destination) (rest : List CallerAction) :
    State :=
  { s with inbox := rest, target := u, dst := dst, delivered := none }

/-- The end of a request that did not stop (R28). -/
def endRequest : Host.Outcome State Fault Refusal → Host.Outcome State Fault Refusal
  | .next t => .next t.handBack
  | .fault r => .fault r
  | .refused r => .refused r

/-- The caller's direct write of one byte of `PAY` (R36). A byte that does not exist cannot be written
(R28; log 8). -/
def State.callerWrite (s : State) (i : Nat) (v : Byte) (rest : List CallerAction) :
    Host.Outcome State Fault Refusal :=
  if i < s.cfg.payBytes then .next ({ s with inbox := rest }.writePay i v) else .fault .noSuchByte

/-- Take the caller's next action. An illegal request word raises `F_RESERVED` before any other check
(R55, R121, R123). -/
def fetch (s : State) : Fetched :=
  match s.inbox with
  | [] => .idle
  | .writePay i v :: rest => .done (s.callerWrite i v rest)
  | .request u w supplied :: rest =>
    match decode w with
    | .ok i => .run i (s.serve u (destinationOf i supplied) rest)
    | .error _ => .done (.next ((s.serve u none rest).raise .reserved))

/-- The unit a caller addresses a bare word to: the standalone FSM for the two operations only it
accepts, otherwise the composed block (R53; log 5). -/
def unitFor (w : Word64) : BlockUnit :=
  match decode w with
  | .ok .advance => .fsm
  | .ok .reset => .fsm
  | _ => .codec

/-- The request word as the caller's next action, before those already pending. A `SERN` comes with a
destination of zeros (log 9). -/
def State.presentWord (s : State) (w : Word64) : State :=
  { s with inbox := .request (unitFor w) w [] :: s.inbox }

end Sys2Proof.Machine
end

