-- ==== Sys2Proof/Machine/Step.lean ====
section
/-!
DEFINITION. One step: the caller's next action, whole (20_memory R35).
-/
namespace Sys2Proof.Machine

/-- One step. A refused configuration has no run (60_exceptions R122) and a recorded fault is final
(10_state R25); with no action pending the block holds every piece of state (R132, R145). -/
def step (s : State) : Host.Outcome State Fault Refusal :=
  s.permit
    (match fetch s with
     | .idle => .next s
     | .done o => o
     | .run i s' => endRequest (exec i s'))

/-- `s` with a row's word as the request the next step takes. -/
def State.withFetchWord (s : State) (nbits w : Nat) : State := s.presentWord (tableWord nbits w)

end Sys2Proof.Machine
end

