-- ==== Sys2Proof/Machine/Pseudo.lean ====
section
/-!
DEFINITION. The pseudo-operations (30_encoding R60) and a sequence of operations with its responses.
-/
namespace Sys2Proof.Machine

/-- `FEED d0, ..., dk` (R60). -/
def feed (ds : List Byte) : List Instr := ds.map .deser

/-- `SETLEN L` (R60). -/
def setLen (n : Nat) : List Instr :=
  [.fldwr .lenLo (BitVec.ofNat 8 (n % 256)), .fldwr .lenHi (BitVec.ofNat 8 (n / 256))]

/-- `LOADPAY i, d0, ..., dk` (R60). -/
def loadPay : Nat → List Byte → List Instr
  | _, [] => []
  | i, d :: ds => .paywr i d :: loadPay (i + 1) ds

/-- The operations one after another on the unit the state addresses, with the response of each; a
stop ends it. -/
def runAll : List Instr → State → Host.Outcome (List (Option Word64) × State) Fault Refusal
  | [], s => .next ([], s)
  | i :: is, s =>
    match exec i s with
    | .fault r => .fault r
    | .refused r => .refused r
    | .next s' =>
      match runAll is s' with
      | .fault r => .fault r
      | .refused r => .refused r
      | .next (rs, t) => .next (s'.response :: rs, t)

/-- `SERB` at most `k` times, until a response has `ok = 0` or none is given, with the emitted
bytes. -/
def sendUpTo : Nat → State → Host.Outcome (List Byte × State) Fault Refusal
  | 0, s => .next ([], s)
  | k + 1, s =>
    match exec .serb s with
    | .fault r => .fault r
    | .refused r => .refused r
    | .next s' =>
      match s'.response with
      | none => .next ([], s')
      | some r =>
        if okOf r then
          match sendUpTo k s' with
          | .fault q => .fault q
          | .refused q => .refused q
          | .next (bs, t) => .next (byteOf r :: bs, t)
        else .next ([byteOf r], s')

/-- `SENDALL` (R60): `SERB` until a response has `ok = 0`, that call's byte included. No frame takes
more than `min(len, CAP) + 8` calls (R88), so the bound cuts nothing off. -/
def sendAll (s : State) : Host.Outcome (List Byte × State) Fault Refusal :=
  sendUpTo (s.covered + overhead) s

end Sys2Proof.Machine
end

