-- ==== Sys2Proof/Safety.lean ====
section
/-!
DEFINITION. What a good state is and what counts as a safe run, in the terms the statements use.
-/
namespace Sys2Proof.Machine

/-- Requests have a meaning: the configuration is not refused (60_exceptions R122) and no model fault
is recorded (R119). -/
structure State.Ready (s : State) : Prop where
  cfg_wf : s.cfg.wf = true
  no_fault : s.fault = none

/-- The composed block serves its next request: ready, addressed, and initialised (R120). -/
structure State.CodecReady (s : State) : Prop extends State.Ready s where
  target_codec : s.target = .codec
  is_live : s.live = true

/-- The standalone FSM serves its next request: ready, addressed, and reset once (R120). -/
structure State.FsmReady (s : State) : Prop extends State.Ready s where
  target_fsm : s.target = .fsm
  is_live : s.fsmLive = true

/-- The destination a caller action supplies is in canonical form. -/
def CallerAction.wf : CallerAction → Bool
  | .request _ _ m => m.wf
  | .writePay _ _ => true

/-- The machine's invariant between requests: no `DST` exists (20_memory R28); every byte space is in
canonical form, a destination handed back or still to be supplied too; and neither `PAY` nor a
destination has a byte at an index that does not exist (10_state R27, R28, R29). -/
structure State.Inv (s : State) : Prop where
  pay_wf : s.pay.wf = true
  pay_below : s.pay.below s.cfg.payBytes = true
  dst_closed : s.dst = none
  delivered_wf : s.delivered.all Destination.wf = true
  inbox_wf : s.inbox.all CallerAction.wf = true

/-- `k` steps end in a next state with no model fault recorded (R119). -/
def State.SafeRun (s : State) (k : Nat) : Prop :=
  ∃ t, Sys2Proof.core.run k s = .next t ∧ t.fault = none

end Sys2Proof.Machine
end

