-- ==== Sys2Proof/Certificates/Slice0/Obligations.lean ====
section
/-!
DEFINITION. The statements for the provers. A next state is written as the old one with the fields
that change, so every statement of that form carries its frame: all that is not written is unchanged.
Response words are written out (30_encoding R57): `0#64` is the all-zero word, `1#64` is `ok = 1`.
-/

open Sys2Proof Sys2Proof.Machine

/-! ### Encoding (30_encoding R52 to R56) -/

/-- Decoding the word of a well-formed operation gives it back, with every operand. -/
def Obligations.DecodeOfEncodeIsIdentity : Prop :=
  ∀ i : Instr, i.wf = true → decode (encode i) = .ok i

/-- A word that decodes is the word of the operation it decodes to, which is well-formed: no two words
stand for one operation. -/
def Obligations.EncodeOfDecodeIsIdentity : Prop :=
  ∀ (w : Word64) (i : Instr), decode w = .ok i → i.wf = true ∧ encode i = w

/-- Exactly the words R55 calls illegal whichever unit receives them are rejected. -/
def Obligations.IllegalWordsAreExactlyRejected : Prop :=
  ∀ w : Word64,
    (∃ e, decode w = .error e) ↔
      (w.extractLsb' 0 4 = 0x0 ∨ w.extractLsb' 0 4 = 0xF ∨
        w.extractLsb' 16 16 ≠ 0 ∨
        (w.extractLsb' 4 4 ≠ 0 ∧ w.extractLsb' 0 4 ∉ [0xA, 0xB]) ∨
        (w.extractLsb' 8 8 ≠ 0 ∧ w.extractLsb' 0 4 ∉ [0x2, 0x9, 0xB]) ∨
        (w.extractLsb' 32 32 ≠ 0 ∧ w.extractLsb' 0 4 ∉ [0x4, 0x8, 0x9]) ∨
        (8 ≤ (w.extractLsb' 4 4).toNat ∧ w.extractLsb' 0 4 ∈ [0xA, 0xB]))

/-- The worked encodings of R61 decode to the operations they stand for. -/
def Obligations.WorkedEncodingsDecode : Prop :=
  decode 0x000000000000B502#64 = .ok (.deser 0xB5) ∧
  decode 0x0000000A00000004#64 = .ok (.sern 10) ∧
  decode 0x000000010000BB09#64 = .ok (.paywr 1 0xBB) ∧
  decode 0x000000000000012B#64 = .ok (.fldwr .cls 0x01) ∧
  decode 0x000000000000005A#64 = .ok (.fldrd .lenHi) ∧
  decode 0x0000000000000001#64 = .ok .init

/-! ### The step (30_encoding R58, 60_exceptions R119 to R123) -/

/-- When the caller's next action is a request whose word decodes, the step is that operation, on the
state with the action taken off the list, the request's unit addressed and, for `SERN n` alone, a
destination of `n` bytes of the caller's; after it no destination exists, and the caller has its bytes
back in `delivered`. (The list is the model's choice, log 7; the addressed unit's field, log 5; how a
destination is handed over and back, log 9.) -/
def Obligations.StepRunsTheDecodedOperation : Prop :=
  ∀ (s : State) (u : BlockUnit) (w : Word64) (m : Memory) (rest : List CallerAction) (i : Instr),
    s.Ready → s.inbox = .request u w m :: rest → decode w = .ok i →
    step s =
      (match exec i
          { s with inbox := rest, target := u, delivered := none,
                   dst := match i with
                     | .sern n => some { size := n, bytes := m.keepBelow n }
                     | _ => none } with
       | .next t => .next { t with dst := none, delivered := t.dst }
       | .fault r => .fault r
       | .refused r => .refused r)

/-- An illegal request word is answered by `F_RESERVED`, initialised or not: no response, no
destination, and nothing but `fault` changes in either unit. (The list of actions is the model's choice,
log 7; the addressed unit's field, log 5; that `delivered` then holds nothing, log 9.) -/
def Obligations.IllegalWordRaisesReserved : Prop :=
  ∀ (s : State) (u : BlockUnit) (w : Word64) (m : Memory) (rest : List CallerAction)
    (e : DecodeError),
    s.Ready → s.inbox = .request u w m :: rest → decode w = .error e →
    step s = .next { s with inbox := rest, target := u, dst := none, delivered := none,
                            fault := some .reserved, response := none }

/-- A destination lasts for its request: after the step that serves a request none exists. If the step
handed one back, the request was a `SERN n`, the destination has `n` bytes and no others, and each byte
at or past the count answered (all of them, if a fault was raised) is the caller's own. (`delivered`,
where the caller has it back, is the model's choice, log 9; the list of actions, log 7.) -/
def Obligations.DestinationLastsOneRequest : Prop :=
  ∀ (s t : State) (u : BlockUnit) (w : Word64) (m : Memory) (rest : List CallerAction),
    s.inbox = .request u w m :: rest → step s = .next t →
    t.dst = none ∧
    ∀ d, t.delivered = some d →
      ∃ n, decode w = .ok (.sern n) ∧ d.size = n ∧ d.bytes.below n = true ∧
        ∀ j, j < n →
          (match t.response with
            | some r => (r.extractLsb' 32 32).toNat
            | none => 0) ≤ j →
          d.bytes.read j = m.read j

/-- With no action pending a step holds every piece of state (R132, R145; the list of actions is the
model's choice, log 7). -/
def Obligations.NoRequestHoldsEveryState : Prop :=
  ∀ s : State, s.Ready → s.inbox = [] → step s = .next s

/-- The caller's direct write between requests changes the one byte of `PAY` it names, if that byte
exists; otherwise the step stops (the stop is the model's choice, log 8; that the write stands in a list, log 7). -/
def Obligations.CallerWritesPayloadDirectly : Prop :=
  ∀ (s : State) (i : Nat) (v : Byte) (rest : List CallerAction),
    s.Ready → s.pay.wf = true → s.inbox = .writePay i v :: rest →
    (if s.cfg.hasBuf = true ∧ i < s.cfg.cap then
      ∃ t, step s = .next t ∧ t = { s with inbox := rest, pay := t.pay } ∧ t.pay.read i = v ∧
        ∀ j, j ≠ i → t.pay.read j = s.pay.read j
     else step s = .fault .noSuchByte)

/-- A request before the first `INIT` (composed block) or `RESET` (standalone FSM) raises
`F_NOT_INIT`; nothing but `fault` changes and there is no response. -/
def Obligations.RequestBeforeInitRaisesNotInit : Prop :=
  ∀ (i : Instr) (s : State), s.Ready →
    ((s.target = .codec ∧ s.live = false ∧ i ∉ [.init, .advance, .reset]) ∨
     (s.target = .fsm ∧ s.fsmLive = false ∧ i ∈ [.current, .advance])) →
    exec i s = .next { s with fault := some .notInit, response := none }

/-- An operation presented to a unit that does not accept it raises `F_RESERVED`, initialised or not:
the composed block takes neither `ADVANCE` nor `RESET`, the standalone FSM only `CURRENT`,
`ADVANCE`, `RESET`. -/
def Obligations.WrongUnitRaisesReserved : Prop :=
  ∀ (i : Instr) (s : State), s.Ready →
    ((s.target = .codec ∧ i ∈ [.advance, .reset]) ∨
     (s.target = .fsm ∧ i ∉ [.current, .advance, .reset])) →
    exec i s = .next { s with fault := some .reserved, response := none }

/-- A recorded model fault is final: no operation and no step has a next state. (That the model stops
with the recorded reason one step later is its choice, log 6.) -/
def Obligations.RecordedFaultIsFinal : Prop :=
  ∀ (s : State) (r : FaultReason), s.cfg.wf = true → s.fault = some r →
    step s = .fault (.stopped r) ∧ ∀ i, exec i s = .fault (.stopped r)

/-- A configuration with a buffer of capacity 0, or with `CAP` above 2^32 - 1, is refused, and no other:
so a configuration without a buffer runs with `CAP = 0` too. (That no other is refused is the model's
reading, log 10.) -/
def Obligations.ZeroOrOversizeCapacityRefused : Prop :=
  ∀ s : State,
    (((s.cfg.hasBuf = true ∧ s.cfg.cap = 0) ∨ s.cfg.cap > 2 ^ 32 - 1) →
      step s = .refused .configuration ∧ ∀ i, exec i s = .refused .configuration) ∧
    (¬ ((s.cfg.hasBuf = true ∧ s.cfg.cap = 0) ∨ s.cfg.cap > 2 ^ 32 - 1) →
      step s ≠ .refused .configuration ∧ ∀ i, exec i s ≠ .refused .configuration)

/-- Every operation that completes without a model fault gives a response word, and one that raises
gives none. -/
def Obligations.ResponseExactlyWithoutFault : Prop :=
  ∀ (i : Instr) (s t : State), exec i s = .next t →
    (t.fault = none ∧ ∃ r, t.response = some r) ∨
    (∃ f, t.fault = some f ∧ t.response = none)

/-- A response word has a non-zero field only where the operation has that result. -/
def Obligations.ResponseFieldsBelongToTheirOperations : Prop :=
  ∀ (i : Instr) (s t : State) (r : Word64), exec i s = .next t → t.response = some r →
    r.extractLsb' 1 7 = 0 ∧
    (r.getLsbD 0 = true → (∃ d, i = .deser d) ∨ i = .serb ∨ i = .valid) ∧
    (r.extractLsb' 8 8 ≠ 0 → i = .serb ∨ (∃ k, i = .payrd k) ∨ (∃ q, i = .fldrd q) ∨ i = .current) ∧
    (r.extractLsb' 16 16 ≠ 0 → i = .cksum) ∧
    (r.extractLsb' 32 32 ≠ 0 → ∃ n, i = .sern n)

/-! ### Reset (45_init R113 to R116, 10_state R26) -/

/-- `INIT` primes the marker registers, zeroes the others, rewinds the cursor, clears the counter and
makes the block live; `PAY` and all else are unchanged. -/
def Obligations.InitPrimesTheBlock : Prop :=
  ∀ s : State, s.Ready → s.target = .codec →
    exec .init s = .next
      { s with regs := ⟨s.cfg.m1, s.cfg.m2, 0x00, 0x00, 0x00, 0x00, 0x00, 0x00⟩,
               cur := .marker1, cnt := 0, live := true, response := some 0#64 }

/-- From power-on, whatever the unspecified registers, cursors, counter and buffer hold, every request
but `INIT` to the block raises `F_NOT_INIT`, and `INIT` leaves the column "after INIT" of R26; and
`CURRENT` and `ADVANCE` to the standalone FSM raise it, and `RESET` leaves it live in its initial
state. -/
def Obligations.PowerOnNeedsInit : Prop :=
  ∀ (c : Config) (regs : PacketRegs) (cur : Cursor) (cnt : Half) (fsmCur : Cursor) (pay : Memory)
    (s f : State),
    c.wf = true → s = State.powerOn c regs cur cnt fsmCur pay → f = { s with target := .fsm } →
    (∀ i, i ∉ [Instr.init, .advance, .reset] →
      ∃ t, exec i s = .next t ∧ t.fault = some .notInit ∧ t.response = none) ∧
    (∃ t, exec .init s = .next t ∧
      t.regs = ⟨c.m1, c.m2, 0x00, 0x00, 0x00, 0x00, 0x00, 0x00⟩ ∧ t.cur = .marker1 ∧ t.cnt = 0 ∧
      t.pay = pay ∧ t.live = true ∧ t.fault = none) ∧
    (∀ i, i ∈ [Instr.current, .advance] →
      ∃ t, exec i f = .next t ∧ t.fault = some .notInit ∧ t.response = none) ∧
    ∃ t, exec .reset f = .next t ∧ t.fsmCur = .marker1 ∧ t.fsmLive = true ∧ t.fault = none

/-- The reset state is a power-on state: neither unit is live, no fault is recorded, every request but
`INIT` to the block raises `F_NOT_INIT`, and `INIT` makes it live. (The values it holds where the spec
leaves one unspecified are the model's choice, log 1, log 2 and log 3; this statement rests on none of
them but the configuration's being one that runs.) -/
def Obligations.ResetIsBeforeTheFirstInit : Prop :=
  State.reset.live = false ∧ State.reset.fsmLive = false ∧ State.reset.fault = none ∧
  (∀ i, i ∉ [Instr.init, .advance, .reset] →
    exec i State.reset = .next { State.reset with fault := some .notInit, response := none }) ∧
  ∃ t, exec .init State.reset = .next t ∧ t.live = true ∧ t.fault = none

/-- After `INIT` the packet is a valid empty frame: the computed pair is (0x00, 0x00), equal to `ck_a`,
`ck_b`; `VALID` answers 1, and `SERN 8` answers 8 with the two sentinels and six zero bytes in `DST`. -/
def Obligations.InitLeavesValidEmptyFrame : Prop :=
  ∀ (s : State) (d : Destination), s.Ready → s.target = .codec → d.wf = true → d.size = 8 →
    ∃ u t e, runAll [.init, .cksum, .valid] s = .next ([some 0#64, some 0#64, some 1#64], u) ∧
      u.regs.ckA = 0x00 ∧ u.regs.ckB = 0x00 ∧
      exec (.sern 8) { u with dst := some d } = .next t ∧
      t.response = some 0x0000000800000000#64 ∧ t.dst = some e ∧
      (List.range 8).map e.bytes.read = [s.cfg.m1, s.cfg.m2, 0, 0, 0, 0, 0, 0]

/-! ### The standalone FSM and the cursor (40_fsm) -/

/-- `CURRENT` answers the ordinal of the addressed unit's cursor and changes nothing. -/
def Obligations.CurrentAnswersTheOrdinal : Prop :=
  ∀ s : State,
    (s.CodecReady →
      exec .current s =
        .next { s with response := some (packResponse false (BitVec.ofNat 8 s.cur.ordinal) 0 0) }) ∧
    (s.FsmReady →
      exec .current s =
        .next { s with response := some (packResponse false (BitVec.ofNat 8 s.fsmCur.ordinal) 0 0) })

/-- `ADVANCE` moves the standalone cursor to the next ordinal, and from the last to the first. -/
def Obligations.AdvanceMovesTheStandaloneCursor : Prop :=
  ∀ s : State, s.FsmReady →
    ∃ c : Cursor, exec .advance s = .next { s with fsmCur := c, response := some 0#64 } ∧
      c.ordinal = if s.fsmCur.ordinal = 8 then 0 else s.fsmCur.ordinal + 1

/-- `RESET` forces the standalone cursor to the initial state and makes the FSM live, from power-on
too. -/
def Obligations.ResetRewindsTheStandaloneCursor : Prop :=
  ∀ s : State, s.Ready → s.target = .fsm →
    exec .reset s = .next { s with fsmCur := .marker1, fsmLive := true, response := some 0#64 }

/-- Nine `ADVANCE`s from any state return to that state. -/
def Obligations.NineAdvancesReturn : Prop :=
  ∀ s : State, s.FsmReady →
    runAll (List.replicate 9 .advance) s =
      .next (List.replicate 9 (some 0#64), { s with response := some 0#64 })

/-- `DESER` and `SERB` move the block's cursor by at most two positions, or to the initial state. -/
def Obligations.CursorMovesAtMostTwo : Prop :=
  ∀ (i : Instr) (s t : State), exec i s = .next t →
    t.cur = s.cur ∨ t.cur = s.cur.next ∨ t.cur = s.cur.next.next ∨ t.cur = .marker1

/-! ### DESER (41_deserialize) -/

/-- The marker arms: the matching byte is stored and the cursor advances; in `MARKER1` any other byte
changes nothing; in `MARKER2` any other byte is consumed and the search restarts. -/
def Obligations.DeserMarkerArms : Prop :=
  ∀ (s : State) (d : Byte), s.CodecReady →
    (s.cur = .marker1 →
      exec (.deser d) s = .next
        (if d = s.cfg.m1 then
          { s with regs := { s.regs with m1 := d }, cur := .marker2, response := some 0#64 }
         else { s with response := some 0#64 })) ∧
    (s.cur = .marker2 →
      exec (.deser d) s = .next
        (if d = s.cfg.m2 then
          { s with regs := { s.regs with m2 := d }, cur := .cls, response := some 0#64 }
         else { s with cur := .marker1, response := some 0#64 }))

/-- The class, id and length-low arms store the byte in their register and advance. -/
def Obligations.DeserHeaderArms : Prop :=
  ∀ (s : State) (d : Byte), s.CodecReady →
    (s.cur = .cls →
      exec (.deser d) s = .next
        { s with regs := { s.regs with cls := d }, cur := .id, response := some 0#64 }) ∧
    (s.cur = .id →
      exec (.deser d) s = .next
        { s with regs := { s.regs with id := d }, cur := .lenLo, response := some 0#64 }) ∧
    (s.cur = .lenLo →
      exec (.deser d) s = .next
        { s with regs := { s.regs with lenLo := d }, cur := .lenHi, response := some 0#64 })

/-- The length-high arm stores the byte, clears the payload counter and advances. -/
def Obligations.DeserLengthHighArm : Prop :=
  ∀ (s : State) (d : Byte), s.CodecReady → s.cur = .lenHi →
    exec (.deser d) s = .next
      { s with regs := { s.regs with lenHi := d }, cnt := 0, cur := .payload,
               response := some 0#64 }

/-- The storing case of the payload arm: the byte lands at the counter's index, which is below `CAP`,
every other byte of `PAY` stays, the counter counts up without passing `min(len, CAP)`, and the cursor
stays. -/
def Obligations.DeserStoresPayloadByte : Prop :=
  ∀ (s : State) (d : Byte), s.CodecReady → s.cur = .payload → s.pay.wf = true →
    s.cfg.hasBuf = true →
    s.cnt.toNat < s.regs.lenLo.toNat + 256 * s.regs.lenHi.toNat → s.cnt.toNat < s.cfg.cap →
    ∃ t, exec (.deser d) s = .next t ∧
      t = { s with pay := t.pay, cnt := s.cnt + 1, response := some 0#64 } ∧
      t.pay.read s.cnt.toNat = d ∧ (∀ j, j ≠ s.cnt.toNat → t.pay.read j = s.pay.read j) ∧
      t.cnt.toNat = s.cnt.toNat + 1 ∧
      t.cnt.toNat ≤ min (s.regs.lenLo.toNat + 256 * s.regs.lenHi.toNat) s.cfg.cap

/-- The fall-through: a byte the payload arm cannot store is the first checksum byte, in the same
request. -/
def Obligations.DeserFallsThroughToChecksum : Prop :=
  ∀ (s : State) (d : Byte), s.CodecReady → s.cur = .payload →
    ¬ (s.cfg.hasBuf = true ∧
       s.cnt.toNat < s.regs.lenLo.toNat + 256 * s.regs.lenHi.toNat ∧ s.cnt.toNat < s.cfg.cap) →
    exec (.deser d) s = .next
      { s with regs := { s.regs with ckA := d }, cur := .ck2, response := some 0#64 }

/-- The checksum arms: the first stores and advances; the second stores, returns the cursor to the
initial state and signals completion. -/
def Obligations.DeserChecksumArms : Prop :=
  ∀ (s : State) (d : Byte), s.CodecReady →
    (s.cur = .ck1 →
      exec (.deser d) s = .next
        { s with regs := { s.regs with ckA := d }, cur := .ck2, response := some 0#64 }) ∧
    (s.cur = .ck2 →
      exec (.deser d) s = .next
        { s with regs := { s.regs with ckB := d }, cur := .marker1, response := some 1#64 })

/-- `DESER` answers `ok = 1` exactly from the state of the second checksum byte. -/
def Obligations.DeserCompletesExactlyAtSecondChecksum : Prop :=
  ∀ (s t : State) (d : Byte), s.CodecReady → exec (.deser d) s = .next t →
    t.response = some (if s.cur = .ck2 then 1#64 else 0#64)

/-- A frame fed from `MARKER1` is delimited after exactly the payload bytes the block can store: all
`len` of them with a buffer and `len ≤ CAP`, `CAP` of them on an overrun, none without a buffer. The
answer is `ok = 1` on that frame's last byte only; the registers hold its fields, `PAY` its stored
payload, and nothing else of `PAY` changes. -/
def Obligations.FedFrameIsReconstructed : Prop :=
  ∀ (s : State) (c i lo hi x y : Byte) (ps : List Byte),
    s.CodecReady → s.cur = .marker1 → s.pay.wf = true →
    ps.length = (if s.cfg.hasBuf then min (lo.toNat + 256 * hi.toNat) s.cfg.cap else 0) →
    ∃ t,
      runAll (feed ([s.cfg.m1, s.cfg.m2, c, i, lo, hi] ++ ps ++ [x, y])) s =
        .next (List.replicate (ps.length + 7) (some 0#64) ++ [some 1#64], t) ∧
      t = { s with regs := ⟨s.cfg.m1, s.cfg.m2, c, i, lo, hi, x, y⟩, pay := t.pay,
                   cnt := BitVec.ofNat 16 ps.length, response := some 1#64 } ∧
      (∀ k (h : k < ps.length), t.pay.read k = ps[k]) ∧
      (∀ k, ps.length ≤ k → t.pay.read k = s.pay.read k)

/-- Bytes that are not the first sentinel are dropped one by one, whatever their number: the block
keeps searching with no state changed. -/
def Obligations.SearchDropsForeignBytes : Prop :=
  ∀ (s : State) (ds : List Byte), s.CodecReady → s.cur = .marker1 → s.cfg.m1 ∉ ds →
    ∃ t, runAll (feed ds) s = .next (List.replicate ds.length (some 0#64), t) ∧
      t = { s with response := t.response }

/-- A false start leaves the block searching as before, so the frame after it is not lost: from
`MARKER1`, the first sentinel and a byte that is not the second leave only `m1`, equal to `M1`,
written. -/
def Obligations.FalseStartRestartsTheSearch : Prop :=
  ∀ (s : State) (d : Byte) (ds : List Byte), s.CodecReady → s.cur = .marker1 → d ≠ s.cfg.m2 →
    runAll (feed (s.cfg.m1 :: d :: ds)) s =
      (match runAll (feed ds)
          { s with regs := { s.regs with m1 := s.cfg.m1 }, response := some 0#64 } with
       | .next (rs, t) => .next (some 0#64 :: some 0#64 :: rs, t)
       | .fault r => .fault r
       | .refused r => .refused r)

/-! ### SERB (42_serialize, incremental) -/

/-- The arms for the markers, class, id and length-low emit their register as it stands and advance. -/
def Obligations.SerbFixedArms : Prop :=
  ∀ s : State, s.CodecReady →
    (s.cur = .marker1 → exec .serb s = .next
      { s with cur := .marker2, response := some (packResponse true s.regs.m1 0 0) }) ∧
    (s.cur = .marker2 → exec .serb s = .next
      { s with cur := .cls, response := some (packResponse true s.regs.m2 0 0) }) ∧
    (s.cur = .cls → exec .serb s = .next
      { s with cur := .id, response := some (packResponse true s.regs.cls 0 0) }) ∧
    (s.cur = .id → exec .serb s = .next
      { s with cur := .lenLo, response := some (packResponse true s.regs.id 0 0) }) ∧
    (s.cur = .lenLo → exec .serb s = .next
      { s with cur := .lenHi, response := some (packResponse true s.regs.lenLo 0 0) })

/-- The length-high arm emits, clears the payload counter and advances. -/
def Obligations.SerbLengthHighArm : Prop :=
  ∀ s : State, s.CodecReady → s.cur = .lenHi →
    exec .serb s = .next
      { s with cnt := 0, cur := .payload, response := some (packResponse true s.regs.lenHi 0 0) }

/-- The payload arm emits the byte at the counter and stays while there is one, and otherwise emits the
first checksum register in the same request. -/
def Obligations.SerbPayloadArm : Prop :=
  ∀ s : State, s.CodecReady → s.cur = .payload →
    exec .serb s = .next
      (if s.cfg.hasBuf = true ∧
          s.cnt.toNat < s.regs.lenLo.toNat + 256 * s.regs.lenHi.toNat ∧ s.cnt.toNat < s.cfg.cap then
        { s with cnt := s.cnt + 1,
                 response := some (packResponse true (s.pay.read s.cnt.toNat) 0 0) }
       else { s with cur := .ck2, response := some (packResponse true s.regs.ckA 0 0) })

/-- The checksum arms: `ok = 1` with `ck_a`; then `ok = 0` with `ck_b` and the cursor back at the
initial state. -/
def Obligations.SerbChecksumArms : Prop :=
  ∀ s : State, s.CodecReady →
    (s.cur = .ck1 → exec .serb s = .next
      { s with cur := .ck2, response := some (packResponse true s.regs.ckA 0 0) }) ∧
    (s.cur = .ck2 → exec .serb s = .next
      { s with cur := .marker1, response := some (packResponse false s.regs.ckB 0 0) })

/-- `SENDALL` from `MARKER1` emits the header, the payload bytes that exist up to the declared length
(`len` of them, or `CAP` on an overrun, or none without a buffer) and the two checksum registers, and
leaves everything but the counter as it was. -/
def Obligations.SendAllEmitsTheFrame : Prop :=
  ∀ (s : State) (k : Nat), s.CodecReady → s.cur = .marker1 →
    k = (if s.cfg.hasBuf then
          min (s.regs.lenLo.toNat + 256 * s.regs.lenHi.toNat) s.cfg.cap else 0) →
    sendAll s = .next
      ([s.regs.m1, s.regs.m2, s.regs.cls, s.regs.id, s.regs.lenLo, s.regs.lenHi] ++
          (List.range k).map s.pay.read ++ [s.regs.ckA, s.regs.ckB],
        { s with cnt := BitVec.ofNat 16 k, response := some (packResponse false s.regs.ckB 0 0) })

/-! ### SERN (42_serialize, bulk) -/

/-- A destination too small for the frame: the count 0 and nothing written, not even in part. -/
def Obligations.SernWithoutRoomWritesNothing : Prop :=
  ∀ (s : State) (n : Nat), s.CodecReady →
    n < s.regs.lenLo.toNat + 256 * s.regs.lenHi.toNat + 8 →
    exec (.sern n) s = .next { s with response := some 0#64 }

/-- With room, the count is `len + 8` and `DST`, still of `n` bytes, holds the frame: the six header
registers, the payload (the buffer's byte below `CAP`, a free byte at or above it, zero without a
buffer) and the checksum registers; no other byte of `DST` changes, and no other state. (The form of a
free byte is the model's choice, log 4.) -/
def Obligations.SernWritesTheWholeFrame : Prop :=
  ∀ (s : State) (d : Destination) (n len : Nat),
    s.CodecReady → s.dst = some d → d.wf = true → d.size = n →
    len = s.regs.lenLo.toNat + 256 * s.regs.lenHi.toNat → len + 8 ≤ n →
    ∃ t e, exec (.sern n) s = .next t ∧
      t = { s with dst := some e, draws := t.draws,
                   response := some (packResponse false 0 0 (BitVec.ofNat 32 (len + 8))) } ∧
      e.wf = true ∧ e.size = n ∧
      (List.range 6).map e.bytes.read =
        [s.regs.m1, s.regs.m2, s.regs.cls, s.regs.id, s.regs.lenLo, s.regs.lenHi] ∧
      (∀ i, i < len → e.bytes.read (6 + i) =
        if s.cfg.hasBuf = true then
          (if i < s.cfg.cap then s.pay.read i else Config.drawOverrun s.draws i)
        else 0x00) ∧
      e.bytes.read (6 + len) = s.regs.ckA ∧ e.bytes.read (7 + len) = s.regs.ckB ∧
      (∀ j, len + 8 ≤ j → e.bytes.read j = d.bytes.read j)

/-- With a buffer and `len ≤ CAP`, the bytes `SENDALL` emits from `MARKER1` are those a successful
`SERN` writes. -/
def Obligations.BulkAndIncrementalAgree : Prop :=
  ∀ (s : State) (d : Destination) (n len : Nat),
    s.CodecReady → s.cur = .marker1 → s.dst = some d → d.wf = true → d.size = n →
    s.cfg.hasBuf = true → len = s.regs.lenLo.toNat + 256 * s.regs.lenHi.toNat →
    len ≤ s.cfg.cap → len + 8 ≤ n →
    ∃ t u e bs, exec (.sern n) s = .next t ∧ t.dst = some e ∧ sendAll s = .next (bs, u) ∧
      (List.range (len + 8)).map e.bytes.read = bs

/-- Loop back: a packet that is updated, written by `SERN` and fed to a block that stands at
`MARKER1`, with room for the payload on both sides and the sentinels in the sender's marker registers,
completes on its last byte, is valid, and has the sender's registers and payload. -/
def Obligations.LoopbackReconstructsThePacket : Prop :=
  ∀ (s r : State) (d : Destination) (n len : Nat),
    s.CodecReady → r.CodecReady → r.cur = .marker1 → d.wf = true → d.size = n →
    r.pay.wf = true → s.cfg.hasBuf = true → r.cfg.hasBuf = true →
    len = s.regs.lenLo.toNat + 256 * s.regs.lenHi.toNat → len ≤ s.cfg.cap → len ≤ r.cfg.cap →
    s.regs.m1 = r.cfg.m1 → s.regs.m2 = r.cfg.m2 → len + 8 ≤ n →
    ∃ u t e r', exec .update s = .next u ∧
      exec (.sern n) { u with dst := some d } = .next t ∧ t.dst = some e ∧
      runAll (feed ((List.range (len + 8)).map e.bytes.read) ++ [.valid]) r =
        .next (List.replicate (len + 7) (some 0#64) ++ [some 1#64, some 1#64], r') ∧
      r'.regs = t.regs ∧ ∀ k, k < len → r'.pay.read k = s.pay.read k

/-! ### Checksum (43_checksum) -/

/-- The pair of a byte sequence in closed form: `a` is the sum of the bytes and `b` the sum of each byte
weighted by its distance from the end, both mod 256; so order matters to `b` alone. -/
def Obligations.ChecksumPairClosedForm : Prop :=
  ∀ xs : List Byte,
    ckPair xs =
      (BitVec.ofNat 8 (xs.map BitVec.toNat).sum,
       BitVec.ofNat 8 ((List.range xs.length).map
         fun j => (xs.length - j) * (xs.getD j 0).toNat).sum)

/-- `UPDATE` writes the pair over class, id, both length bytes and the payload bytes that exist up to
the declared length into `ck_a`, `ck_b`, and nothing else; on an overrun under `DRAW` the two bytes are
free values. -/
def Obligations.UpdateWritesTheComputedPair : Prop :=
  ∀ (s : State) (len k : Nat) (p : Byte × Byte), s.CodecReady →
    len = s.regs.lenLo.toNat + 256 * s.regs.lenHi.toNat →
    k = (if s.cfg.hasBuf then min len s.cfg.cap else 0) →
    p = ckPair ([s.regs.cls, s.regs.id, s.regs.lenLo, s.regs.lenHi] ++
      (List.range k).map s.pay.read) →
    if s.cfg.hasBuf = true ∧ s.cfg.cap < len ∧ s.cfg.chkOverrun = .draw then
      exec .update s = .next
        { s with regs := { s.regs with ckA := Config.drawCkA s.draws, ckB := Config.drawCkB s.draws },
                 draws := s.draws + 1, response := some 0#64 }
    else
      exec .update s = .next
        { s with regs := { s.regs with ckA := p.1, ckB := p.2 }, response := some 0#64 }

/-- `CKSUM` answers that pair with `a` in the low byte and writes no state of the block. -/
def Obligations.CksumAnswersTheComputedPair : Prop :=
  ∀ (s : State) (len k : Nat) (p : Byte × Byte), s.CodecReady →
    len = s.regs.lenLo.toNat + 256 * s.regs.lenHi.toNat →
    k = (if s.cfg.hasBuf then min len s.cfg.cap else 0) →
    p = ckPair ([s.regs.cls, s.regs.id, s.regs.lenLo, s.regs.lenHi] ++
      (List.range k).map s.pay.read) →
    if s.cfg.hasBuf = true ∧ s.cfg.cap < len ∧ s.cfg.chkOverrun = .draw then
      exec .cksum s = .next
        { s with draws := s.draws + 1,
                 response := some (packResponse false 0
                   (Config.drawCkB s.draws ++ Config.drawCkA s.draws) 0) }
    else
      exec .cksum s = .next { s with response := some (packResponse false 0 (p.2 ++ p.1) 0) }

/-- `VALID` answers whether that pair equals `ck_a`, `ck_b` and writes no state of the block. -/
def Obligations.ValidComparesTheComputedPair : Prop :=
  ∀ (s : State) (len k : Nat) (p : Byte × Byte), s.CodecReady →
    len = s.regs.lenLo.toNat + 256 * s.regs.lenHi.toNat →
    k = (if s.cfg.hasBuf then min len s.cfg.cap else 0) →
    p = ckPair ([s.regs.cls, s.regs.id, s.regs.lenLo, s.regs.lenHi] ++
      (List.range k).map s.pay.read) →
    if s.cfg.hasBuf = true ∧ s.cfg.cap < len ∧ s.cfg.chkOverrun = .draw then
      exec .valid s = .next
        { s with draws := s.draws + 1,
                 response := some (packResponse (decide (Config.drawCkA s.draws = s.regs.ckA ∧
                   Config.drawCkB s.draws = s.regs.ckB)) 0 0 0) }
    else
      exec .valid s = .next
        { s with
          response := some (packResponse (decide (p.1 = s.regs.ckA ∧ p.2 = s.regs.ckB)) 0 0 0) }

/-- `VALID` on a freshly updated packet is true, but for an overrun under `DRAW`. -/
def Obligations.ValidAfterUpdate : Prop :=
  ∀ s : State, s.CodecReady → s.ckFree = false →
    ∃ t, runAll [.update, .valid] s = .next ([some 0#64, some 1#64], t)

/-- After `UPDATE`, changing the class, the id or a covered payload byte makes `VALID` answer 0. -/
def Obligations.CoveredChangeInvalidates : Prop :=
  ∀ (s : State) (v : Byte), s.CodecReady → s.ckFree = false → s.pay.wf = true →
    (v ≠ s.regs.cls →
      ∃ t, runAll [.update, .fldwr .cls v, .valid] s =
        .next ([some 0#64, some 0#64, some 0#64], t)) ∧
    (v ≠ s.regs.id →
      ∃ t, runAll [.update, .fldwr .id v, .valid] s =
        .next ([some 0#64, some 0#64, some 0#64], t)) ∧
    (∀ i, s.cfg.hasBuf = true → i < s.regs.lenLo.toNat + 256 * s.regs.lenHi.toNat → i < s.cfg.cap →
      v ≠ s.pay.read i →
      ∃ t, runAll [.update, .paywr i v, .valid] s =
        .next ([some 0#64, some 0#64, some 0#64], t))

/-- Changing a marker register, or a byte of `PAY` at or past `min(len, CAP)`, does not change what
`VALID` answers (but for an overrun under `DRAW`). -/
def Obligations.UncoveredChangeKeepsValidity : Prop :=
  ∀ (s : State) (v : Byte) (i : Instr) (r : Word64) (t : State),
    s.CodecReady → s.ckFree = false →
    (i = .fldwr .m1 v ∨ i = .fldwr .m2 v ∨
      ∃ k, i = .paywr k v ∧
        (s.cfg.hasBuf = true →
          min (s.regs.lenLo.toNat + 256 * s.regs.lenHi.toNat) s.cfg.cap ≤
            if k < s.cfg.cap then k else s.cfg.cap - 1)) →
    exec .valid s = .next t → t.response = some r →
    ∃ u, runAll [i, .valid] s = .next ([some 0#64, some r], u)

/-! ### Payload and register access (44_access) -/

/-- `PAYRD` with a buffer answers the byte at the index, or at `CAP - 1` for an index at or above
`CAP`, and changes nothing. -/
def Obligations.PayrdAnswersTheClampedByte : Prop :=
  ∀ (s : State) (i : Nat), s.CodecReady → s.cfg.hasBuf = true →
    exec (.payrd i) s = .next
      { s with response := some (packResponse false
          (s.pay.read (if i < s.cfg.cap then i else s.cfg.cap - 1)) 0 0) }

/-- `PAYRD` without a buffer answers a free byte, a new one at each use, and changes nothing else. -/
def Obligations.PayrdWithoutBufferAnswersFreeByte : Prop :=
  ∀ (s : State) (i : Nat), s.CodecReady → s.cfg.hasBuf = false →
    exec (.payrd i) s = .next
      { s with draws := s.draws + 1,
               response := some (packResponse false (Config.drawDummy s.draws) 0 0) }

/-- `PAYWR` with a buffer writes the byte at the clamped index, an index that exists, and nothing
else; a read at the same index then answers it. -/
def Obligations.PaywrWritesTheClampedByte : Prop :=
  ∀ (s : State) (i j : Nat) (d : Byte), s.CodecReady → s.cfg.hasBuf = true → s.pay.wf = true →
    j = (if i < s.cfg.cap then i else s.cfg.cap - 1) →
    ∃ t, exec (.paywr i d) s = .next t ∧
      t = { s with pay := t.pay, response := some 0#64 } ∧ j < s.cfg.cap ∧
      t.pay.read j = d ∧ (∀ k, k ≠ j → t.pay.read k = s.pay.read k) ∧
      exec (.payrd i) t = .next { t with response := some (packResponse false d 0 0) }

/-- `PAYWR` without a buffer changes no state. -/
def Obligations.PaywrWithoutBufferChangesNothing : Prop :=
  ∀ (s : State) (i : Nat) (d : Byte), s.CodecReady → s.cfg.hasBuf = false →
    exec (.paywr i d) s = .next { s with response := some 0#64 }

/-- `FLDWR` writes the one register and nothing else, and `FLDRD` answers a register and changes
nothing, for each of the eight. -/
def Obligations.FieldAccessReadsAndWritesOneRegister : Prop :=
  ∀ (s : State) (r : Reg) (d : Byte), s.CodecReady →
    (∃ t, exec (.fldwr r d) s = .next t ∧
      t = { s with regs := t.regs, response := some 0#64 } ∧
      ∀ q, t.regs.get q = if q = r then d else s.regs.get q) ∧
    exec (.fldrd r) s = .next { s with response := some (packResponse false (s.regs.get r) 0 0) }

/-! ### The whole machine -/

/-- Which operations write which state: any other leaves it unchanged. -/
def Obligations.OnlyNamedOperationsWrite : Prop :=
  ∀ (i : Instr) (s t : State), exec i s = .next t →
    t.cfg = s.cfg ∧ t.target = s.target ∧ t.inbox = s.inbox ∧ t.delivered = s.delivered ∧
    (t.regs ≠ s.regs → i = .init ∨ (∃ d, i = .deser d) ∨ i = .update ∨ ∃ r d, i = .fldwr r d) ∧
    (t.cur ≠ s.cur → i = .init ∨ (∃ d, i = .deser d) ∨ i = .serb) ∧
    (t.cnt ≠ s.cnt → i = .init ∨ (∃ d, i = .deser d) ∨ i = .serb) ∧
    (t.pay ≠ s.pay → (∃ d, i = .deser d) ∨ ∃ k d, i = .paywr k d) ∧
    (t.dst ≠ s.dst → ∃ n, i = .sern n) ∧
    (t.live ≠ s.live → i = .init) ∧
    (t.fsmCur ≠ s.fsmCur → i = .advance ∨ i = .reset) ∧
    (t.fsmLive ≠ s.fsmLive → i = .reset)

/-- No step changes the configuration or makes a live unit not live. -/
def Obligations.StepKeepsConfigurationAndLiveness : Prop :=
  ∀ s t : State, step s = .next t →
    t.cfg = s.cfg ∧ (s.live = true → t.live = true) ∧ (s.fsmLive = true → t.fsmLive = true)

/-- Every step keeps the byte spaces canonical, `PAY` and a destination handed back free of any byte at an
index that does not exist, whatever lengths the wire declares, and `DST` absent between requests. -/
def Obligations.StepKeepsInvariant : Prop :=
  ∀ s t : State, s.Inv → step s = .next t → t.Inv

/-- The invariant holds right after reset (the configuration and the empty memory there are the model's
choice, log 2 and log 3). -/
def Obligations.InvariantHoldsAtReset : Prop :=
  State.reset.Inv

/-- A run from a state that meets the invariant meets it at every point, for any actions of the caller. -/
def Obligations.InvariantHoldsAlongEveryRun : Prop :=
  ∀ (k : Nat) (s t : State), s.Inv → Sys2Proof.core.run k s = .next t → t.Inv ∧ t.cfg = s.cfg
end

