-- ==== Sys2Proof/Laws/Encoding.lean ====
section
/-!
SUPPORT. The two layouts of a request word undo each other, field by field (30_encoding R52, R54).
-/
namespace Sys2Proof

/-- The fields of the word of five fields are those fields. -/
theorem splitWord_joinWord (q : ReqFields) : splitWord (joinWord q) = q := by
  obtain ⟨op, f, d, z, a⟩ := q
  simp only [splitWord, joinWord, ReqFields.mk.injEq]
  refine ⟨?_, ?_, ?_, ?_, ?_⟩ <;> refine BitVec.eq_of_getLsbD_eq fun i hi => ?_ <;>
    simp only [BitVec.getLsbD_extractLsb', BitVec.getLsbD_append]
  · rw [if_pos (by omega)]; simp [hi]
  · rw [if_neg (by omega), if_pos (by omega)]; simp [hi]
  · rw [if_neg (by omega), if_neg (by omega), if_pos (by omega)]
    rw [show 8 + i - 4 - 4 = i by omega]; simp [hi]
  · rw [if_neg (by omega), if_neg (by omega), if_neg (by omega), if_pos (by omega)]
    rw [show 16 + i - 4 - 4 - 8 = i by omega]; simp [hi]
  · rw [if_neg (by omega), if_neg (by omega), if_neg (by omega), if_neg (by omega)]
    rw [show 32 + i - 4 - 4 - 8 - 16 = i by omega]; simp [hi]

/-- The word of a word's five fields is that word: the fields leave no bit out. -/
theorem joinWord_splitWord (w : Word64) : joinWord (splitWord w) = w := by
  refine BitVec.eq_of_getLsbD_eq fun i hi => ?_
  simp only [splitWord, joinWord, BitVec.getLsbD_extractLsb', BitVec.getLsbD_append]
  split
  · simp [*]
  · split
    · rw [show 4 + (i - 4) = i by omega]; simp [*]
    · split
      · rw [show 8 + (i - 4 - 4) = i by omega]; simp [*]
      · split
        · rw [show 16 + (i - 4 - 4 - 8) = i by omega]; simp [*]
        · rw [show 32 + (i - 4 - 4 - 8 - 16) = i by omega]; simp; omega

/-- The selector of a register selects it. -/
@[simp] theorem regOfSelector_selectorOf (r : Reg) : regOfSelector (selectorOf r) = some r := by
  cases r <;> rfl

/-- A selector that selects a register is that register's. -/
theorem selectorOf_of_regOfSelector {f : BitVec 4} {r : Reg} (h : regOfSelector f = some r) :
    selectorOf r = f := by
  revert f r; decide

/-- A selector selects nothing exactly from 8 on (R54). -/
theorem regOfSelector_eq_none_iff {f : BitVec 4} : regOfSelector f = none ↔ 8 ≤ f.toNat := by
  revert f; decide

/-- If `using` answers an operation, `z` and every unused field are zero (R55). -/
theorem ReqFields.using_ok {q : ReqFields} {f d a : Bool} {r : Except DecodeError Instr} {i : Instr}
    (h : q.using f d a r = .ok i) :
    q.z = 0 ∧ (f = false → q.f = 0) ∧ (d = false → q.d = 0) ∧ (a = false → q.a = 0) ∧
      r = .ok i := by
  unfold ReqFields.using at h
  split at h
  · cases h
  · split at h
    · cases h
    · rename_i hz hn
      have hz' : q.z = 0 := by simpa using hz
      refine ⟨hz', ?_, ?_, ?_, h⟩ <;> intro e <;> subst e <;> simp_all

end Sys2Proof
end

