-- ==== Sys2Proof/Laws/Memory.lean ====
section
/-!
SUPPORT. The laws of a byte space: read after write, and the canonical form.
-/
namespace Sys2Proof.Machine

@[simp] theorem Memory.read_nil (a : Nat) : Memory.read [] a = unlistedByte := rfl

/-- Below the first index of a canonical list nothing is listed. -/
theorem Memory.read_of_wfFrom {lo : Nat} {m : Memory} (h : Memory.wfFrom lo m = true) {a : Nat}
    (ha : a < lo) : m.read a = unlistedByte := by
  induction m generalizing lo with
  | nil => rfl
  | cons c m ih =>
    obtain ⟨k, x⟩ := c
    simp only [Memory.wfFrom, Bool.and_eq_true, decide_eq_true_eq] at h
    have hk : a ≠ k := by omega
    simp only [Memory.read, if_neg hk]
    exact ih h.2 (by omega)

theorem Memory.wfFrom_mono {lo lo' : Nat} {m : Memory} (h : Memory.wfFrom lo m = true)
    (hl : lo' ≤ lo) : Memory.wfFrom lo' m = true := by
  cases m with
  | nil => rfl
  | cons c m =>
    simp only [Memory.wfFrom, Bool.and_eq_true, decide_eq_true_eq] at h ⊢
    exact ⟨⟨by omega, h.1.2⟩, h.2⟩

/-- A write leaves every other byte alone. -/
@[simp] theorem Memory.read_write_of_ne (m : Memory) {a b : Nat} (v : Byte) (h : b ≠ a) :
    (m.write a v).read b = m.read b := by
  induction m with
  | nil =>
    by_cases hv : v = unlistedByte <;> simp [Memory.write, Memory.read, hv, h]
  | cons c m ih =>
    obtain ⟨k, x⟩ := c
    simp only [Memory.write]
    split
    · split <;> simp [Memory.read, h]
    · split
      · rename_i hak
        subst hak
        split <;> simp [Memory.read, h]
      · simp [Memory.read, ih]

/-- A read after a write to the same byte gives the value written. -/
theorem Memory.read_write_same_from {lo : Nat} {m : Memory} (hm : Memory.wfFrom lo m = true)
    (a : Nat) (v : Byte) : (m.write a v).read a = v := by
  induction m generalizing lo with
  | nil => by_cases hv : v = unlistedByte <;> simp [Memory.write, Memory.read, hv]
  | cons c m ih =>
    obtain ⟨k, x⟩ := c
    simp only [Memory.wfFrom, Bool.and_eq_true, decide_eq_true_eq] at hm
    simp only [Memory.write]
    split
    · rename_i hak
      split
      · rename_i hv
        have hne : a ≠ k := by omega
        simp only [Memory.read, if_neg hne, hv]
        exact Memory.read_of_wfFrom hm.2 (by omega)
      · simp [Memory.read]
    · split
      · rename_i hak
        subst hak
        split
        · rename_i hv
          rw [hv]
          exact Memory.read_of_wfFrom hm.2 (by omega)
        · simp [Memory.read]
      · rename_i hak
        simp only [Memory.read, if_neg hak]
        exact ih hm.2

theorem Memory.read_write_same {m : Memory} (hm : m.wf = true) (a : Nat) (v : Byte) :
    (m.write a v).read a = v := Memory.read_write_same_from hm a v

theorem Memory.write_wfFrom {lo : Nat} {m : Memory} (hm : Memory.wfFrom lo m = true) {a : Nat}
    (ha : lo ≤ a) (v : Byte) : Memory.wfFrom lo (m.write a v) = true := by
  induction m generalizing lo with
  | nil => by_cases hv : v = unlistedByte <;> simp [Memory.write, Memory.wfFrom, hv, ha]
  | cons c m ih =>
    obtain ⟨k, x⟩ := c
    have hm' := hm
    simp only [Memory.wfFrom, Bool.and_eq_true, decide_eq_true_eq] at hm
    simp only [Memory.write]
    split
    · split
      · exact hm'
      · simp only [Memory.wfFrom, Bool.and_eq_true, decide_eq_true_eq]
        exact ⟨⟨ha, by simpa using ‹v ≠ unlistedByte›⟩, ⟨by omega, hm.1.2⟩, hm.2⟩
    · split
      · rename_i hak
        subst hak
        split
        · exact Memory.wfFrom_mono hm.2 (by omega)
        · simp only [Memory.wfFrom, Bool.and_eq_true, decide_eq_true_eq]
          exact ⟨⟨ha, by simpa using ‹v ≠ unlistedByte›⟩, hm.2⟩
      · simp only [Memory.wfFrom, Bool.and_eq_true, decide_eq_true_eq]
        exact ⟨hm.1, ih hm.2 (by omega)⟩

/-- A write keeps the canonical form. -/
theorem Memory.write_wf {m : Memory} (hm : m.wf = true) (a : Nat) (v : Byte) :
    (m.write a v).wf = true := Memory.write_wfFrom hm (Nat.zero_le a) v

/-- A run of writes keeps the canonical form. -/
theorem Memory.writeAll_wf {m : Memory} (hm : m.wf = true) (a : Nat) (vs : List Byte) :
    (m.writeAll a vs).wf = true := by
  induction vs generalizing m a with
  | nil => exact hm
  | cons v vs ih => exact ih (Memory.write_wf hm a v) (a + 1)

/-- A write below a bound keeps every listed index below it. -/
theorem Memory.write_below {n : Nat} {m : Memory} (hm : m.below n = true) {a : Nat} (ha : a < n)
    (v : Byte) : (m.write a v).below n = true := by
  induction m with
  | nil => by_cases hv : v = unlistedByte <;> simp [Memory.write, Memory.below, hv, ha]
  | cons c m ih =>
    obtain ⟨k, x⟩ := c
    simp only [Memory.below, List.all_cons, Bool.and_eq_true, decide_eq_true_eq] at hm ih ⊢
    simp only [Memory.write]
    split
    · split <;> simp only [List.all_cons, Bool.and_eq_true, decide_eq_true_eq]
      · exact hm
      · exact ⟨ha, hm⟩
    · split
      · split
        · exact hm.2
        · simp only [List.all_cons, Bool.and_eq_true, decide_eq_true_eq]
          exact ⟨ha, hm.2⟩
      · simp only [List.all_cons, Bool.and_eq_true, decide_eq_true_eq]
        exact ⟨hm.1, ih hm.2⟩

/-- A run of writes leaves every byte outside it alone. -/
theorem Memory.read_writeAll_of_outside (m : Memory) (a : Nat) (vs : List Byte) {b : Nat}
    (h : b < a ∨ a + vs.length ≤ b) : (m.writeAll a vs).read b = m.read b := by
  induction vs generalizing m a with
  | nil => rfl
  | cons v vs ih =>
    simp only [List.length_cons] at h
    rw [Memory.writeAll, ih _ _ (by omega)]
    exact Memory.read_write_of_ne m v (by omega)

/-- A byte of a run of writes reads as the byte written there. -/
theorem Memory.read_writeAll_of_inside {m : Memory} (hm : m.wf = true) (a : Nat) (vs : List Byte)
    (j : Nat) (h : j < vs.length) : (m.writeAll a vs).read (a + j) = vs[j] := by
  induction vs generalizing m a j with
  | nil => simp at h
  | cons v vs ih =>
    rw [Memory.writeAll]
    cases j with
    | zero =>
      rw [Memory.read_writeAll_of_outside _ _ _ (by omega)]
      exact Memory.read_write_same hm a v
    | succ j =>
      have := ih (Memory.write_wf hm a v) (a + 1) j (by simpa using h)
      rw [show a + (j + 1) = a + 1 + j by omega, this]
      rfl

/-- A run of writes below a bound keeps every listed index below it. -/
theorem Memory.writeAll_below {n : Nat} {m : Memory} (hm : m.below n = true) (a : Nat)
    (vs : List Byte) (h : a + vs.length ≤ n) : (m.writeAll a vs).below n = true := by
  induction vs generalizing m a with
  | nil => exact hm
  | cons v vs ih =>
    simp only [List.length_cons] at h
    exact ih (Memory.write_below hm (by omega) v) (a + 1) (by omega)

/-! ### A destination -/

/-- Below the bound the bytes kept read as before. -/
theorem Memory.read_keepBelow (m : Memory) {n a : Nat} (h : a < n) :
    (m.keepBelow n).read a = m.read a := by
  induction m with
  | nil => rfl
  | cons c m ih =>
    obtain ⟨k, x⟩ := c
    by_cases hk : k < n
    · simp only [Memory.keepBelow, List.filter_cons, hk, decide_true, if_true, Memory.read]
      split
      · rfl
      · exact ih
    · have hne : a ≠ k := by omega
      simp only [Memory.keepBelow, List.filter_cons, hk, decide_false, Memory.read, if_neg hne]
      exact ih

/-- No byte kept is at or past the bound. -/
@[simp] theorem Memory.keepBelow_below (m : Memory) (n : Nat) : (m.keepBelow n).below n = true := by
  simp [Memory.below, Memory.keepBelow]

theorem Memory.keepBelow_wfFrom {lo : Nat} {m : Memory} (hm : Memory.wfFrom lo m = true) (n : Nat) :
    Memory.wfFrom lo (m.keepBelow n) = true := by
  induction m generalizing lo with
  | nil => rfl
  | cons c m ih =>
    obtain ⟨k, x⟩ := c
    simp only [Memory.wfFrom, Bool.and_eq_true, decide_eq_true_eq] at hm
    by_cases hk : k < n
    · simp only [Memory.keepBelow, List.filter_cons, hk, decide_true, if_true, Memory.wfFrom,
        Bool.and_eq_true, decide_eq_true_eq]
      exact ⟨hm.1, ih hm.2⟩
    · simp only [Memory.keepBelow, List.filter_cons, hk, decide_false]
      exact ih (Memory.wfFrom_mono hm.2 (by omega))

/-- Keeping the bytes below a bound keeps the canonical form. -/
theorem Memory.keepBelow_wf {m : Memory} (hm : m.wf = true) (n : Nat) :
    (m.keepBelow n).wf = true := Memory.keepBelow_wfFrom hm n

/-- A destination of canonical contents is well-formed. -/
theorem Destination.supply_wf {m : Memory} (hm : m.wf = true) (n : Nat) :
    (Destination.supply n m).wf = true := by
  simp [Destination.wf, Destination.supply, Memory.keepBelow_wf hm]

end Sys2Proof.Machine
end

