-- ==== Sys2Proof/Laws/State.lean ====
section
/-!
SUPPORT. One lemma per field per update of the state, so that no proof unfolds a record update.
-/
namespace Sys2Proof.Machine

variable (s : State)

/-! ### `setReg` -/

@[simp] theorem State.setReg_cfg (r : Reg) (v : Byte) : (s.setReg r v).cfg = s.cfg := rfl
@[simp] theorem State.setReg_regs (r : Reg) (v : Byte) : (s.setReg r v).regs = s.regs.set r v := rfl
@[simp] theorem State.setReg_cur (r : Reg) (v : Byte) : (s.setReg r v).cur = s.cur := rfl
@[simp] theorem State.setReg_cnt (r : Reg) (v : Byte) : (s.setReg r v).cnt = s.cnt := rfl
@[simp] theorem State.setReg_pay (r : Reg) (v : Byte) : (s.setReg r v).pay = s.pay := rfl
@[simp] theorem State.setReg_live (r : Reg) (v : Byte) : (s.setReg r v).live = s.live := rfl
@[simp] theorem State.setReg_fsmCur (r : Reg) (v : Byte) : (s.setReg r v).fsmCur = s.fsmCur := rfl
@[simp] theorem State.setReg_fsmLive (r : Reg) (v : Byte) : (s.setReg r v).fsmLive = s.fsmLive := rfl
@[simp] theorem State.setReg_fault (r : Reg) (v : Byte) : (s.setReg r v).fault = s.fault := rfl
@[simp] theorem State.setReg_response (r : Reg) (v : Byte) : (s.setReg r v).response = s.response := rfl
@[simp] theorem State.setReg_dst (r : Reg) (v : Byte) : (s.setReg r v).dst = s.dst := rfl
@[simp] theorem State.setReg_delivered (r : Reg) (v : Byte) : (s.setReg r v).delivered = s.delivered := rfl
@[simp] theorem State.setReg_target (r : Reg) (v : Byte) : (s.setReg r v).target = s.target := rfl
@[simp] theorem State.setReg_inbox (r : Reg) (v : Byte) : (s.setReg r v).inbox = s.inbox := rfl
@[simp] theorem State.setReg_draws (r : Reg) (v : Byte) : (s.setReg r v).draws = s.draws := rfl

/-! ### `setCur` -/

@[simp] theorem State.setCur_cfg (c : Cursor) : (s.setCur c).cfg = s.cfg := rfl
@[simp] theorem State.setCur_regs (c : Cursor) : (s.setCur c).regs = s.regs := rfl
@[simp] theorem State.setCur_cur (c : Cursor) : (s.setCur c).cur = c := rfl
@[simp] theorem State.setCur_cnt (c : Cursor) : (s.setCur c).cnt = s.cnt := rfl
@[simp] theorem State.setCur_pay (c : Cursor) : (s.setCur c).pay = s.pay := rfl
@[simp] theorem State.setCur_live (c : Cursor) : (s.setCur c).live = s.live := rfl
@[simp] theorem State.setCur_fsmCur (c : Cursor) : (s.setCur c).fsmCur = s.fsmCur := rfl
@[simp] theorem State.setCur_fsmLive (c : Cursor) : (s.setCur c).fsmLive = s.fsmLive := rfl
@[simp] theorem State.setCur_fault (c : Cursor) : (s.setCur c).fault = s.fault := rfl
@[simp] theorem State.setCur_response (c : Cursor) : (s.setCur c).response = s.response := rfl
@[simp] theorem State.setCur_dst (c : Cursor) : (s.setCur c).dst = s.dst := rfl
@[simp] theorem State.setCur_delivered (c : Cursor) : (s.setCur c).delivered = s.delivered := rfl
@[simp] theorem State.setCur_target (c : Cursor) : (s.setCur c).target = s.target := rfl
@[simp] theorem State.setCur_inbox (c : Cursor) : (s.setCur c).inbox = s.inbox := rfl
@[simp] theorem State.setCur_draws (c : Cursor) : (s.setCur c).draws = s.draws := rfl

/-! ### `fsmAdvance` -/

@[simp] theorem State.fsmAdvance_cfg : (s.fsmAdvance).cfg = s.cfg := rfl
@[simp] theorem State.fsmAdvance_regs : (s.fsmAdvance).regs = s.regs := rfl
@[simp] theorem State.fsmAdvance_cur : (s.fsmAdvance).cur = s.cur.next := rfl
@[simp] theorem State.fsmAdvance_cnt : (s.fsmAdvance).cnt = s.cnt := rfl
@[simp] theorem State.fsmAdvance_pay : (s.fsmAdvance).pay = s.pay := rfl
@[simp] theorem State.fsmAdvance_live : (s.fsmAdvance).live = s.live := rfl
@[simp] theorem State.fsmAdvance_fsmCur : (s.fsmAdvance).fsmCur = s.fsmCur := rfl
@[simp] theorem State.fsmAdvance_fsmLive : (s.fsmAdvance).fsmLive = s.fsmLive := rfl
@[simp] theorem State.fsmAdvance_fault : (s.fsmAdvance).fault = s.fault := rfl
@[simp] theorem State.fsmAdvance_response : (s.fsmAdvance).response = s.response := rfl
@[simp] theorem State.fsmAdvance_dst : (s.fsmAdvance).dst = s.dst := rfl
@[simp] theorem State.fsmAdvance_delivered : (s.fsmAdvance).delivered = s.delivered := rfl
@[simp] theorem State.fsmAdvance_target : (s.fsmAdvance).target = s.target := rfl
@[simp] theorem State.fsmAdvance_inbox : (s.fsmAdvance).inbox = s.inbox := rfl
@[simp] theorem State.fsmAdvance_draws : (s.fsmAdvance).draws = s.draws := rfl

/-! ### `fsmReset` -/

@[simp] theorem State.fsmReset_cfg : (s.fsmReset).cfg = s.cfg := rfl
@[simp] theorem State.fsmReset_regs : (s.fsmReset).regs = s.regs := rfl
@[simp] theorem State.fsmReset_cur : (s.fsmReset).cur = .marker1 := rfl
@[simp] theorem State.fsmReset_cnt : (s.fsmReset).cnt = s.cnt := rfl
@[simp] theorem State.fsmReset_pay : (s.fsmReset).pay = s.pay := rfl
@[simp] theorem State.fsmReset_live : (s.fsmReset).live = s.live := rfl
@[simp] theorem State.fsmReset_fsmCur : (s.fsmReset).fsmCur = s.fsmCur := rfl
@[simp] theorem State.fsmReset_fsmLive : (s.fsmReset).fsmLive = s.fsmLive := rfl
@[simp] theorem State.fsmReset_fault : (s.fsmReset).fault = s.fault := rfl
@[simp] theorem State.fsmReset_response : (s.fsmReset).response = s.response := rfl
@[simp] theorem State.fsmReset_dst : (s.fsmReset).dst = s.dst := rfl
@[simp] theorem State.fsmReset_delivered : (s.fsmReset).delivered = s.delivered := rfl
@[simp] theorem State.fsmReset_target : (s.fsmReset).target = s.target := rfl
@[simp] theorem State.fsmReset_inbox : (s.fsmReset).inbox = s.inbox := rfl
@[simp] theorem State.fsmReset_draws : (s.fsmReset).draws = s.draws := rfl

/-! ### `setCnt` -/

@[simp] theorem State.setCnt_cfg (v : Half) : (s.setCnt v).cfg = s.cfg := rfl
@[simp] theorem State.setCnt_regs (v : Half) : (s.setCnt v).regs = s.regs := rfl
@[simp] theorem State.setCnt_cur (v : Half) : (s.setCnt v).cur = s.cur := rfl
@[simp] theorem State.setCnt_cnt (v : Half) : (s.setCnt v).cnt = v := rfl
@[simp] theorem State.setCnt_pay (v : Half) : (s.setCnt v).pay = s.pay := rfl
@[simp] theorem State.setCnt_live (v : Half) : (s.setCnt v).live = s.live := rfl
@[simp] theorem State.setCnt_fsmCur (v : Half) : (s.setCnt v).fsmCur = s.fsmCur := rfl
@[simp] theorem State.setCnt_fsmLive (v : Half) : (s.setCnt v).fsmLive = s.fsmLive := rfl
@[simp] theorem State.setCnt_fault (v : Half) : (s.setCnt v).fault = s.fault := rfl
@[simp] theorem State.setCnt_response (v : Half) : (s.setCnt v).response = s.response := rfl
@[simp] theorem State.setCnt_dst (v : Half) : (s.setCnt v).dst = s.dst := rfl
@[simp] theorem State.setCnt_delivered (v : Half) : (s.setCnt v).delivered = s.delivered := rfl
@[simp] theorem State.setCnt_target (v : Half) : (s.setCnt v).target = s.target := rfl
@[simp] theorem State.setCnt_inbox (v : Half) : (s.setCnt v).inbox = s.inbox := rfl
@[simp] theorem State.setCnt_draws (v : Half) : (s.setCnt v).draws = s.draws := rfl

/-! ### `writePay` -/

@[simp] theorem State.writePay_cfg (i : Nat) (v : Byte) : (s.writePay i v).cfg = s.cfg := rfl
@[simp] theorem State.writePay_regs (i : Nat) (v : Byte) : (s.writePay i v).regs = s.regs := rfl
@[simp] theorem State.writePay_cur (i : Nat) (v : Byte) : (s.writePay i v).cur = s.cur := rfl
@[simp] theorem State.writePay_cnt (i : Nat) (v : Byte) : (s.writePay i v).cnt = s.cnt := rfl
@[simp] theorem State.writePay_pay (i : Nat) (v : Byte) : (s.writePay i v).pay = s.pay.write i v := rfl
@[simp] theorem State.writePay_live (i : Nat) (v : Byte) : (s.writePay i v).live = s.live := rfl
@[simp] theorem State.writePay_fsmCur (i : Nat) (v : Byte) : (s.writePay i v).fsmCur = s.fsmCur := rfl
@[simp] theorem State.writePay_fsmLive (i : Nat) (v : Byte) : (s.writePay i v).fsmLive = s.fsmLive := rfl
@[simp] theorem State.writePay_fault (i : Nat) (v : Byte) : (s.writePay i v).fault = s.fault := rfl
@[simp] theorem State.writePay_response (i : Nat) (v : Byte) : (s.writePay i v).response = s.response := rfl
@[simp] theorem State.writePay_dst (i : Nat) (v : Byte) : (s.writePay i v).dst = s.dst := rfl
@[simp] theorem State.writePay_delivered (i : Nat) (v : Byte) : (s.writePay i v).delivered = s.delivered := rfl
@[simp] theorem State.writePay_target (i : Nat) (v : Byte) : (s.writePay i v).target = s.target := rfl
@[simp] theorem State.writePay_inbox (i : Nat) (v : Byte) : (s.writePay i v).inbox = s.inbox := rfl
@[simp] theorem State.writePay_draws (i : Nat) (v : Byte) : (s.writePay i v).draws = s.draws := rfl

/-! ### `writeDst` -/

@[simp] theorem State.writeDst_cfg (a : Nat) (vs : List Byte) : (s.writeDst a vs).cfg = s.cfg := rfl
@[simp] theorem State.writeDst_regs (a : Nat) (vs : List Byte) : (s.writeDst a vs).regs = s.regs := rfl
@[simp] theorem State.writeDst_cur (a : Nat) (vs : List Byte) : (s.writeDst a vs).cur = s.cur := rfl
@[simp] theorem State.writeDst_cnt (a : Nat) (vs : List Byte) : (s.writeDst a vs).cnt = s.cnt := rfl
@[simp] theorem State.writeDst_pay (a : Nat) (vs : List Byte) : (s.writeDst a vs).pay = s.pay := rfl
@[simp] theorem State.writeDst_live (a : Nat) (vs : List Byte) : (s.writeDst a vs).live = s.live := rfl
@[simp] theorem State.writeDst_fsmCur (a : Nat) (vs : List Byte) : (s.writeDst a vs).fsmCur = s.fsmCur := rfl
@[simp] theorem State.writeDst_fsmLive (a : Nat) (vs : List Byte) : (s.writeDst a vs).fsmLive = s.fsmLive := rfl
@[simp] theorem State.writeDst_fault (a : Nat) (vs : List Byte) : (s.writeDst a vs).fault = s.fault := rfl
@[simp] theorem State.writeDst_response (a : Nat) (vs : List Byte) : (s.writeDst a vs).response = s.response := rfl
@[simp] theorem State.writeDst_dst (a : Nat) (vs : List Byte) : (s.writeDst a vs).dst =
    s.dst.map fun d => { d with bytes := d.bytes.writeAll a vs } := rfl
@[simp] theorem State.writeDst_delivered (a : Nat) (vs : List Byte) : (s.writeDst a vs).delivered = s.delivered := rfl
@[simp] theorem State.writeDst_target (a : Nat) (vs : List Byte) : (s.writeDst a vs).target = s.target := rfl
@[simp] theorem State.writeDst_inbox (a : Nat) (vs : List Byte) : (s.writeDst a vs).inbox = s.inbox := rfl
@[simp] theorem State.writeDst_draws (a : Nat) (vs : List Byte) : (s.writeDst a vs).draws = s.draws := rfl

/-! ### `drew` -/

@[simp] theorem State.drew_cfg : (s.drew).cfg = s.cfg := rfl
@[simp] theorem State.drew_regs : (s.drew).regs = s.regs := rfl
@[simp] theorem State.drew_cur : (s.drew).cur = s.cur := rfl
@[simp] theorem State.drew_cnt : (s.drew).cnt = s.cnt := rfl
@[simp] theorem State.drew_pay : (s.drew).pay = s.pay := rfl
@[simp] theorem State.drew_live : (s.drew).live = s.live := rfl
@[simp] theorem State.drew_fsmCur : (s.drew).fsmCur = s.fsmCur := rfl
@[simp] theorem State.drew_fsmLive : (s.drew).fsmLive = s.fsmLive := rfl
@[simp] theorem State.drew_fault : (s.drew).fault = s.fault := rfl
@[simp] theorem State.drew_response : (s.drew).response = s.response := rfl
@[simp] theorem State.drew_dst : (s.drew).dst = s.dst := rfl
@[simp] theorem State.drew_delivered : (s.drew).delivered = s.delivered := rfl
@[simp] theorem State.drew_target : (s.drew).target = s.target := rfl
@[simp] theorem State.drew_inbox : (s.drew).inbox = s.inbox := rfl
@[simp] theorem State.drew_draws : (s.drew).draws = s.draws + 1 := rfl

/-! ### `reply` -/

@[simp] theorem State.reply_cfg (w : Word64) : (s.reply w).cfg = s.cfg := rfl
@[simp] theorem State.reply_regs (w : Word64) : (s.reply w).regs = s.regs := rfl
@[simp] theorem State.reply_cur (w : Word64) : (s.reply w).cur = s.cur := rfl
@[simp] theorem State.reply_cnt (w : Word64) : (s.reply w).cnt = s.cnt := rfl
@[simp] theorem State.reply_pay (w : Word64) : (s.reply w).pay = s.pay := rfl
@[simp] theorem State.reply_live (w : Word64) : (s.reply w).live = s.live := rfl
@[simp] theorem State.reply_fsmCur (w : Word64) : (s.reply w).fsmCur = s.fsmCur := rfl
@[simp] theorem State.reply_fsmLive (w : Word64) : (s.reply w).fsmLive = s.fsmLive := rfl
@[simp] theorem State.reply_fault (w : Word64) : (s.reply w).fault = s.fault := rfl
@[simp] theorem State.reply_response (w : Word64) : (s.reply w).response = some w := rfl
@[simp] theorem State.reply_dst (w : Word64) : (s.reply w).dst = s.dst := rfl
@[simp] theorem State.reply_delivered (w : Word64) : (s.reply w).delivered = s.delivered := rfl
@[simp] theorem State.reply_target (w : Word64) : (s.reply w).target = s.target := rfl
@[simp] theorem State.reply_inbox (w : Word64) : (s.reply w).inbox = s.inbox := rfl
@[simp] theorem State.reply_draws (w : Word64) : (s.reply w).draws = s.draws := rfl

/-! ### `raise` -/

@[simp] theorem State.raise_cfg (f : FaultReason) : (s.raise f).cfg = s.cfg := rfl
@[simp] theorem State.raise_regs (f : FaultReason) : (s.raise f).regs = s.regs := rfl
@[simp] theorem State.raise_cur (f : FaultReason) : (s.raise f).cur = s.cur := rfl
@[simp] theorem State.raise_cnt (f : FaultReason) : (s.raise f).cnt = s.cnt := rfl
@[simp] theorem State.raise_pay (f : FaultReason) : (s.raise f).pay = s.pay := rfl
@[simp] theorem State.raise_live (f : FaultReason) : (s.raise f).live = s.live := rfl
@[simp] theorem State.raise_fsmCur (f : FaultReason) : (s.raise f).fsmCur = s.fsmCur := rfl
@[simp] theorem State.raise_fsmLive (f : FaultReason) : (s.raise f).fsmLive = s.fsmLive := rfl
@[simp] theorem State.raise_fault (f : FaultReason) : (s.raise f).fault = some f := rfl
@[simp] theorem State.raise_response (f : FaultReason) : (s.raise f).response = none := rfl
@[simp] theorem State.raise_dst (f : FaultReason) : (s.raise f).dst = s.dst := rfl
@[simp] theorem State.raise_delivered (f : FaultReason) : (s.raise f).delivered = s.delivered := rfl
@[simp] theorem State.raise_target (f : FaultReason) : (s.raise f).target = s.target := rfl
@[simp] theorem State.raise_inbox (f : FaultReason) : (s.raise f).inbox = s.inbox := rfl
@[simp] theorem State.raise_draws (f : FaultReason) : (s.raise f).draws = s.draws := rfl

/-! ### `initialised` -/

@[simp] theorem State.initialised_cfg : (s.initialised).cfg = s.cfg := rfl
@[simp] theorem State.initialised_regs : (s.initialised).regs = PacketRegs.primed s.cfg := rfl
@[simp] theorem State.initialised_cur : (s.initialised).cur = .marker1 := rfl
@[simp] theorem State.initialised_cnt : (s.initialised).cnt = 0 := rfl
@[simp] theorem State.initialised_pay : (s.initialised).pay = s.pay := rfl
@[simp] theorem State.initialised_live : (s.initialised).live = true := rfl
@[simp] theorem State.initialised_fsmCur : (s.initialised).fsmCur = s.fsmCur := rfl
@[simp] theorem State.initialised_fsmLive : (s.initialised).fsmLive = s.fsmLive := rfl
@[simp] theorem State.initialised_fault : (s.initialised).fault = s.fault := rfl
@[simp] theorem State.initialised_response : (s.initialised).response = s.response := rfl
@[simp] theorem State.initialised_dst : (s.initialised).dst = s.dst := rfl
@[simp] theorem State.initialised_delivered : (s.initialised).delivered = s.delivered := rfl
@[simp] theorem State.initialised_target : (s.initialised).target = s.target := rfl
@[simp] theorem State.initialised_inbox : (s.initialised).inbox = s.inbox := rfl
@[simp] theorem State.initialised_draws : (s.initialised).draws = s.draws := rfl

/-! ### `setFsmCur` -/

@[simp] theorem State.setFsmCur_cfg (c : Cursor) : (s.setFsmCur c).cfg = s.cfg := rfl
@[simp] theorem State.setFsmCur_regs (c : Cursor) : (s.setFsmCur c).regs = s.regs := rfl
@[simp] theorem State.setFsmCur_cur (c : Cursor) : (s.setFsmCur c).cur = s.cur := rfl
@[simp] theorem State.setFsmCur_cnt (c : Cursor) : (s.setFsmCur c).cnt = s.cnt := rfl
@[simp] theorem State.setFsmCur_pay (c : Cursor) : (s.setFsmCur c).pay = s.pay := rfl
@[simp] theorem State.setFsmCur_live (c : Cursor) : (s.setFsmCur c).live = s.live := rfl
@[simp] theorem State.setFsmCur_fsmCur (c : Cursor) : (s.setFsmCur c).fsmCur = c := rfl
@[simp] theorem State.setFsmCur_fsmLive (c : Cursor) : (s.setFsmCur c).fsmLive = s.fsmLive := rfl
@[simp] theorem State.setFsmCur_fault (c : Cursor) : (s.setFsmCur c).fault = s.fault := rfl
@[simp] theorem State.setFsmCur_response (c : Cursor) : (s.setFsmCur c).response = s.response := rfl
@[simp] theorem State.setFsmCur_dst (c : Cursor) : (s.setFsmCur c).dst = s.dst := rfl
@[simp] theorem State.setFsmCur_delivered (c : Cursor) : (s.setFsmCur c).delivered = s.delivered := rfl
@[simp] theorem State.setFsmCur_target (c : Cursor) : (s.setFsmCur c).target = s.target := rfl
@[simp] theorem State.setFsmCur_inbox (c : Cursor) : (s.setFsmCur c).inbox = s.inbox := rfl
@[simp] theorem State.setFsmCur_draws (c : Cursor) : (s.setFsmCur c).draws = s.draws := rfl

/-! ### `serve` -/

@[simp] theorem State.serve_cfg (u : BlockUnit) (d : Option Destination) (as : List CallerAction) : (s.serve u d as).cfg = s.cfg := rfl
@[simp] theorem State.serve_regs (u : BlockUnit) (d : Option Destination) (as : List CallerAction) : (s.serve u d as).regs = s.regs := rfl
@[simp] theorem State.serve_cur (u : BlockUnit) (d : Option Destination) (as : List CallerAction) : (s.serve u d as).cur = s.cur := rfl
@[simp] theorem State.serve_cnt (u : BlockUnit) (d : Option Destination) (as : List CallerAction) : (s.serve u d as).cnt = s.cnt := rfl
@[simp] theorem State.serve_pay (u : BlockUnit) (d : Option Destination) (as : List CallerAction) : (s.serve u d as).pay = s.pay := rfl
@[simp] theorem State.serve_live (u : BlockUnit) (d : Option Destination) (as : List CallerAction) : (s.serve u d as).live = s.live := rfl
@[simp] theorem State.serve_fsmCur (u : BlockUnit) (d : Option Destination) (as : List CallerAction) : (s.serve u d as).fsmCur = s.fsmCur := rfl
@[simp] theorem State.serve_fsmLive (u : BlockUnit) (d : Option Destination) (as : List CallerAction) : (s.serve u d as).fsmLive = s.fsmLive := rfl
@[simp] theorem State.serve_fault (u : BlockUnit) (d : Option Destination) (as : List CallerAction) : (s.serve u d as).fault = s.fault := rfl
@[simp] theorem State.serve_response (u : BlockUnit) (d : Option Destination) (as : List CallerAction) : (s.serve u d as).response = s.response := rfl
@[simp] theorem State.serve_dst (u : BlockUnit) (d : Option Destination) (as : List CallerAction) : (s.serve u d as).dst = d := rfl
@[simp] theorem State.serve_delivered (u : BlockUnit) (d : Option Destination) (as : List CallerAction) : (s.serve u d as).delivered = none := rfl
@[simp] theorem State.serve_target (u : BlockUnit) (d : Option Destination) (as : List CallerAction) : (s.serve u d as).target = u := rfl
@[simp] theorem State.serve_inbox (u : BlockUnit) (d : Option Destination) (as : List CallerAction) : (s.serve u d as).inbox = as := rfl
@[simp] theorem State.serve_draws (u : BlockUnit) (d : Option Destination) (as : List CallerAction) : (s.serve u d as).draws = s.draws := rfl

/-! ### `handBack` -/

@[simp] theorem State.handBack_cfg : s.handBack.cfg = s.cfg := rfl
@[simp] theorem State.handBack_regs : s.handBack.regs = s.regs := rfl
@[simp] theorem State.handBack_cur : s.handBack.cur = s.cur := rfl
@[simp] theorem State.handBack_cnt : s.handBack.cnt = s.cnt := rfl
@[simp] theorem State.handBack_pay : s.handBack.pay = s.pay := rfl
@[simp] theorem State.handBack_live : s.handBack.live = s.live := rfl
@[simp] theorem State.handBack_fsmCur : s.handBack.fsmCur = s.fsmCur := rfl
@[simp] theorem State.handBack_fsmLive : s.handBack.fsmLive = s.fsmLive := rfl
@[simp] theorem State.handBack_fault : s.handBack.fault = s.fault := rfl
@[simp] theorem State.handBack_response : s.handBack.response = s.response := rfl
@[simp] theorem State.handBack_dst : s.handBack.dst = none := rfl
@[simp] theorem State.handBack_delivered : s.handBack.delivered = s.dst := rfl
@[simp] theorem State.handBack_target : s.handBack.target = s.target := rfl
@[simp] theorem State.handBack_inbox : s.handBack.inbox = s.inbox := rfl
@[simp] theorem State.handBack_draws : s.handBack.draws = s.draws := rfl

/-! ### `presentWord` -/

@[simp] theorem State.presentWord_cfg (w : Word64) : (s.presentWord w).cfg = s.cfg := rfl
@[simp] theorem State.presentWord_regs (w : Word64) : (s.presentWord w).regs = s.regs := rfl
@[simp] theorem State.presentWord_cur (w : Word64) : (s.presentWord w).cur = s.cur := rfl
@[simp] theorem State.presentWord_cnt (w : Word64) : (s.presentWord w).cnt = s.cnt := rfl
@[simp] theorem State.presentWord_pay (w : Word64) : (s.presentWord w).pay = s.pay := rfl
@[simp] theorem State.presentWord_live (w : Word64) : (s.presentWord w).live = s.live := rfl
@[simp] theorem State.presentWord_fsmCur (w : Word64) : (s.presentWord w).fsmCur = s.fsmCur := rfl
@[simp] theorem State.presentWord_fsmLive (w : Word64) : (s.presentWord w).fsmLive = s.fsmLive := rfl
@[simp] theorem State.presentWord_fault (w : Word64) : (s.presentWord w).fault = s.fault := rfl
@[simp] theorem State.presentWord_response (w : Word64) : (s.presentWord w).response = s.response := rfl
@[simp] theorem State.presentWord_dst (w : Word64) : (s.presentWord w).dst = s.dst := rfl
@[simp] theorem State.presentWord_delivered (w : Word64) : (s.presentWord w).delivered = s.delivered := rfl
@[simp] theorem State.presentWord_target (w : Word64) : (s.presentWord w).target = s.target := rfl
@[simp] theorem State.presentWord_inbox (w : Word64) : (s.presentWord w).inbox = .request (unitFor w) w [] :: s.inbox := rfl
@[simp] theorem State.presentWord_draws (w : Word64) : (s.presentWord w).draws = s.draws := rfl

/-! ### `drewOverrun` -/

@[simp] theorem State.drewOverrun_cfg : s.drewOverrun.cfg = s.cfg := by unfold State.drewOverrun; split <;> rfl
@[simp] theorem State.drewOverrun_regs : s.drewOverrun.regs = s.regs := by unfold State.drewOverrun; split <;> rfl
@[simp] theorem State.drewOverrun_cur : s.drewOverrun.cur = s.cur := by unfold State.drewOverrun; split <;> rfl
@[simp] theorem State.drewOverrun_cnt : s.drewOverrun.cnt = s.cnt := by unfold State.drewOverrun; split <;> rfl
@[simp] theorem State.drewOverrun_pay : s.drewOverrun.pay = s.pay := by unfold State.drewOverrun; split <;> rfl
@[simp] theorem State.drewOverrun_live : s.drewOverrun.live = s.live := by unfold State.drewOverrun; split <;> rfl
@[simp] theorem State.drewOverrun_fsmCur : s.drewOverrun.fsmCur = s.fsmCur := by unfold State.drewOverrun; split <;> rfl
@[simp] theorem State.drewOverrun_fsmLive : s.drewOverrun.fsmLive = s.fsmLive := by unfold State.drewOverrun; split <;> rfl
@[simp] theorem State.drewOverrun_fault : s.drewOverrun.fault = s.fault := by unfold State.drewOverrun; split <;> rfl
@[simp] theorem State.drewOverrun_response : s.drewOverrun.response = s.response := by unfold State.drewOverrun; split <;> rfl
@[simp] theorem State.drewOverrun_dst : s.drewOverrun.dst = s.dst := by unfold State.drewOverrun; split <;> rfl
@[simp] theorem State.drewOverrun_delivered : s.drewOverrun.delivered = s.delivered := by unfold State.drewOverrun; split <;> rfl
@[simp] theorem State.drewOverrun_target : s.drewOverrun.target = s.target := by unfold State.drewOverrun; split <;> rfl
@[simp] theorem State.drewOverrun_inbox : s.drewOverrun.inbox = s.inbox := by unfold State.drewOverrun; split <;> rfl
@[simp] theorem State.drewOverrun_draws : s.drewOverrun.draws = if s.overrun then s.draws + 1 else s.draws := by
  unfold State.drewOverrun; split <;> rfl

/-! ### `drewChecksum` -/

@[simp] theorem State.drewChecksum_cfg : s.drewChecksum.cfg = s.cfg := by unfold State.drewChecksum; split <;> rfl
@[simp] theorem State.drewChecksum_regs : s.drewChecksum.regs = s.regs := by unfold State.drewChecksum; split <;> rfl
@[simp] theorem State.drewChecksum_cur : s.drewChecksum.cur = s.cur := by unfold State.drewChecksum; split <;> rfl
@[simp] theorem State.drewChecksum_cnt : s.drewChecksum.cnt = s.cnt := by unfold State.drewChecksum; split <;> rfl
@[simp] theorem State.drewChecksum_pay : s.drewChecksum.pay = s.pay := by unfold State.drewChecksum; split <;> rfl
@[simp] theorem State.drewChecksum_live : s.drewChecksum.live = s.live := by unfold State.drewChecksum; split <;> rfl
@[simp] theorem State.drewChecksum_fsmCur : s.drewChecksum.fsmCur = s.fsmCur := by unfold State.drewChecksum; split <;> rfl
@[simp] theorem State.drewChecksum_fsmLive : s.drewChecksum.fsmLive = s.fsmLive := by unfold State.drewChecksum; split <;> rfl
@[simp] theorem State.drewChecksum_fault : s.drewChecksum.fault = s.fault := by unfold State.drewChecksum; split <;> rfl
@[simp] theorem State.drewChecksum_response : s.drewChecksum.response = s.response := by unfold State.drewChecksum; split <;> rfl
@[simp] theorem State.drewChecksum_dst : s.drewChecksum.dst = s.dst := by unfold State.drewChecksum; split <;> rfl
@[simp] theorem State.drewChecksum_delivered : s.drewChecksum.delivered = s.delivered := by unfold State.drewChecksum; split <;> rfl
@[simp] theorem State.drewChecksum_target : s.drewChecksum.target = s.target := by unfold State.drewChecksum; split <;> rfl
@[simp] theorem State.drewChecksum_inbox : s.drewChecksum.inbox = s.inbox := by unfold State.drewChecksum; split <;> rfl
@[simp] theorem State.drewChecksum_draws : s.drewChecksum.draws = if s.ckFree then s.draws + 1 else s.draws := by
  unfold State.drewChecksum; split <;> rfl

/-- `whenLive` runs the operation on a unit that is initialised. -/
@[simp] theorem State.whenLive_of_live (k : State) (h : s.live = true) : s.whenLive k = k := by
  simp [State.whenLive, h]

/-- `whenLive` raises `F_NOT_INIT` otherwise (R120). -/
@[simp] theorem State.whenLive_of_not (k : State) (h : s.live = false) : s.whenLive k = s.raise .notInit := by
  simp [State.whenLive, h]

/-- `whenFsmLive` runs the operation on a unit that is initialised. -/
@[simp] theorem State.whenFsmLive_of_live (k : State) (h : s.fsmLive = true) : s.whenFsmLive k = k := by
  simp [State.whenFsmLive, h]

/-- `whenFsmLive` raises `F_NOT_INIT` otherwise (R120). -/
@[simp] theorem State.whenFsmLive_of_not (k : State) (h : s.fsmLive = false) : s.whenFsmLive k = s.raise .notInit := by
  simp [State.whenFsmLive, h]

end Sys2Proof.Machine
end

