-- ==== Sys2Proof/Laws/Ops.lean ====
section
/-!
SUPPORT. What each shared operation can do, said once: cite these instead of unfolding it.
-/
namespace Sys2Proof.Machine

/-! ### What stands before an operation -/

/-- If `permit` answers a next state, the state was ready and the continuation answered it. -/
theorem State.permit_next {s t : State} {k : Host.Outcome State Fault Refusal}
    (h : s.permit k = .next t) : s.Ready ∧ k = .next t := by
  unfold State.permit at h
  split at h
  · rename_i hc
    split at h
    · exact ⟨⟨hc, ‹_›⟩, h⟩
    · cases h
  · cases h

/-- On a ready state `permit` is its continuation. -/
@[simp] theorem State.permit_of_ready {s : State} (h : s.Ready)
    (k : Host.Outcome State Fault Refusal) : s.permit k = k := by
  simp [State.permit, h.cfg_wf, h.no_fault]

/-- If `onUnit` answers a next state, it is the operation's at its unit and a reserved-word fault at
the other. -/
theorem State.onUnit_next {s k t : State} {u : BlockUnit} (h : s.onUnit u k = .next t) :
    s.Ready ∧ ((s.target = u ∧ t = k) ∨ (s.target ≠ u ∧ t = s.raise .reserved)) := by
  obtain ⟨hr, hk⟩ := State.permit_next h
  refine ⟨hr, ?_⟩
  split at hk <;> cases hk
  · exact .inl ⟨‹_›, rfl⟩
  · exact .inr ⟨‹_›, rfl⟩

/-- If `onCodec` answers a next state, it is the operation's, or a reserved-word fault at the other
unit, or a not-initialised fault. -/
theorem State.onCodec_next {s k t : State} (h : s.onCodec k = .next t) :
    s.Ready ∧ ((s.CodecReady ∧ t = k) ∨ (s.target ≠ .codec ∧ t = s.raise .reserved) ∨
      (s.target = .codec ∧ s.live = false ∧ t = s.raise .notInit)) := by
  obtain ⟨hr, ⟨hu, ht⟩ | ht⟩ := State.onUnit_next h
  · refine ⟨hr, ?_⟩
    cases hl : s.live
    · exact .inr (.inr ⟨hu, rfl, by simpa [hl] using ht⟩)
    · exact .inl ⟨⟨hr, hu, hl⟩, by simpa [hl] using ht⟩
  · exact ⟨hr, .inr (.inl ht)⟩

/-- On a composed block that serves requests `onCodec` is the operation. -/
@[simp] theorem State.onCodec_of_ready {s : State} (h : s.CodecReady) (k : State) :
    s.onCodec k = .next k := by
  simp [State.onCodec, State.onUnit, State.permit_of_ready h.toReady, h.target_codec, h.is_live]

/-! ### Cursor and registers -/

@[simp] theorem PacketRegs.get_set_same (p : PacketRegs) (r : Reg) (v : Byte) :
    (p.set r v).get r = v := by cases r <;> rfl

@[simp] theorem PacketRegs.get_set_of_ne (p : PacketRegs) {r q : Reg} (v : Byte) (h : q ≠ r) :
    (p.set r v).get q = p.get q := by
  cases r <;> cases q <;> first | rfl | exact absurd rfl h

/-- Two register files that hold the same in every register are the same. -/
theorem PacketRegs.ext_get {p q : PacketRegs} (h : ∀ r, p.get r = q.get r) : p = q := by
  cases p; cases q
  simp only [PacketRegs.mk.injEq]
  exact ⟨h .m1, h .m2, h .cls, h .id, h .lenLo, h .lenHi, h .ckA, h .ckB⟩

/-- The ordinal identifies the state (R51). -/
theorem Cursor.ordinal_injective {c d : Cursor} (h : c.ordinal = d.ordinal) : c = d := by
  cases c <;> cases d <;> first | rfl | exact absurd h (by decide)

/-- `len` as the little-endian value of the two length bytes (20_memory R31). -/
theorem PacketRegs.len_toNat (p : PacketRegs) :
    p.len.toNat = p.lenLo.toNat + 256 * p.lenHi.toNat := by
  have hlo := p.lenLo.isLt
  have hhi := p.lenHi.isLt
  have hs : (p.lenHi.toNat <<< 8) % 65536 = 256 * p.lenHi.toNat := by
    rw [Nat.shiftLeft_eq]; omega
  have hor : p.lenLo.toNat ||| (p.lenHi.toNat <<< 8) = p.lenLo.toNat + 256 * p.lenHi.toNat := by
    rw [Nat.or_comm, ← Nat.shiftLeft_add_eq_or_of_lt (by omega), Nat.shiftLeft_eq]; omega
  rw [← hor]
  simp only [PacketRegs.len, BitVec.truncate_eq_setWidth, BitVec.toNat_or, BitVec.toNat_setWidth,
    BitVec.toNat_shiftLeft]
  congr 1
  · omega
  · rw [Nat.mod_eq_of_lt (show p.lenHi.toNat < 2 ^ 16 by omega)]
    rw [Nat.shiftLeft_eq]; omega

/-- The payload step's condition, spelt out (R72, R83). -/
theorem State.payReady_iff (s : State) : s.payReady = true ↔
    s.cfg.hasBuf = true ∧ s.cnt.toNat < s.lenNat ∧ s.cnt.toNat < s.cfg.cap := by
  simp [State.payReady, and_assoc]

/-- The clamped index is a byte that exists (44_access R107). -/
theorem clampIndex_lt {cap i : Nat} (h : 1 ≤ cap) : clampIndex cap i < cap := by
  unfold clampIndex; split <;> omega

/-- With a buffer and a configuration that is not refused there is at least one byte (R122). -/
theorem Config.one_le_cap {c : Config} (h : c.wf = true) (hb : c.hasBuf = true) : 1 ≤ c.cap := by
  simp only [Config.wf, hb] at h
  simp at h; omega

/-- The bytes covered are bytes that exist (R29). -/
theorem State.covered_le (s : State) : s.covered ≤ s.cfg.payBytes := by
  unfold State.covered Config.payBytes; split <;> omega

/-! ### The response word -/

@[simp] theorem okOf_pack (ok : Bool) (b : Byte) (h : Half) (c : Quad) :
    okOf (packResponse ok b h c) = ok := by
  simp only [okOf, packResponse, BitVec.getLsbD_append]
  rw [if_pos (by omega)]
  cases ok <;> rfl

@[simp] theorem byteOf_pack (ok : Bool) (b : Byte) (h : Half) (c : Quad) :
    byteOf (packResponse ok b h c) = b := by
  refine BitVec.eq_of_getLsbD_eq fun i hi => ?_
  simp only [byteOf, packResponse, BitVec.getLsbD_extractLsb', BitVec.getLsbD_append]
  rw [if_neg (by omega), if_neg (by omega), if_pos (by omega)]
  simp [hi]

@[simp] theorem halfOf_pack (ok : Bool) (b : Byte) (h : Half) (c : Quad) :
    halfOf (packResponse ok b h c) = h := by
  refine BitVec.eq_of_getLsbD_eq fun i hi => ?_
  simp only [halfOf, packResponse, BitVec.getLsbD_extractLsb', BitVec.getLsbD_append]
  rw [if_neg (by omega), if_neg (by omega), if_neg (by omega), if_pos (by omega)]
  rw [show 16 + i - 1 - 7 - 8 = i by omega]
  simp [hi]

@[simp] theorem countOf_pack (ok : Bool) (b : Byte) (h : Half) (c : Quad) :
    countOf (packResponse ok b h c) = c := by
  refine BitVec.eq_of_getLsbD_eq fun i hi => ?_
  simp only [countOf, packResponse, BitVec.getLsbD_extractLsb', BitVec.getLsbD_append]
  rw [if_neg (by omega), if_neg (by omega), if_neg (by omega), if_neg (by omega)]
  rw [show 32 + i - 1 - 7 - 8 - 16 = i by omega]
  simp [hi]

/-! ### The checksum -/

/-- The packed pair is the two bytes side by side, `a` low (20_memory R32). -/
theorem packPair_eq_append (p : Byte × Byte) : packPair p = p.2 ++ p.1 := by
  refine BitVec.eq_of_getLsbD_eq fun i hi => ?_
  simp only [packPair, BitVec.truncate_eq_setWidth, BitVec.getLsbD_or, BitVec.getLsbD_setWidth,
    BitVec.getLsbD_shiftLeft, BitVec.getLsbD_append]
  by_cases h : i < 8
  · simp [h, hi]
  · simp [h, hi, show i - 8 < 16 by omega, BitVec.getLsbD_of_ge p.1 i (by omega)]

/-- Where the pair is free it is the two free bytes, and the use is counted (R100). -/
theorem State.checksum_of_free {s : State} (h : s.ckFree = true) :
    s.checksumPair = (Config.drawCkA s.draws, Config.drawCkB s.draws) ∧ s.drewChecksum = s.drew := by
  simp [State.checksumPair, State.drewChecksum, h]

/-- Elsewhere it is the pair of the covered bytes, and nothing is counted (R96). -/
theorem State.checksum_of_not_free {s : State} (h : s.ckFree = false) :
    s.checksumPair = ckPair s.coveredBytes ∧ s.drewChecksum = s := by
  simp [State.checksumPair, State.drewChecksum, h]

/-- When the pair is free: an overrun under `DRAW` (R96, R100). -/
theorem State.ckFree_iff (s : State) : s.ckFree = true ↔
    s.cfg.hasBuf = true ∧ s.cfg.cap < s.lenNat ∧ s.cfg.chkOverrun = .draw := by
  simp [State.ckFree, State.overrun, and_assoc]

/-! ### Arms of `DESER` and `SERB` -/

/-- What a `DESER` arm leaves alone, whatever the cursor (R67). -/
theorem State.ingest_keeps (s : State) (d : Byte) :
    (s.ingest d).cfg = s.cfg ∧ (s.ingest d).live = s.live ∧ (s.ingest d).fault = s.fault ∧
      (s.ingest d).fsmCur = s.fsmCur ∧ (s.ingest d).fsmLive = s.fsmLive ∧
      (s.ingest d).dst = s.dst ∧ (s.ingest d).delivered = s.delivered ∧ (s.ingest d).target = s.target ∧
      (s.ingest d).inbox = s.inbox ∧ (s.ingest d).draws = s.draws := by
  unfold State.ingest
  split <;> simp only [State.deserM1, State.deserM2, State.deserHdr, State.deserLenHi,
    State.deserPay, State.deserCk1, State.deserCk2] <;> (try split) <;> simp

/-- `DESER` writes `PAY` only in the storing case of the payload step, at the counter (R72). -/
theorem State.ingest_pay (s : State) (d : Byte) :
    (s.ingest d).pay = s.pay ∨
      (s.payReady = true ∧ (s.ingest d).pay = s.pay.write s.cnt.toNat d) := by
  unfold State.ingest
  split <;> simp only [State.deserM1, State.deserM2, State.deserHdr, State.deserLenHi,
    State.deserPay, State.deserCk1, State.deserCk2] <;> (try split) <;> simp_all

/-- `SERB` writes the cursor, the counter and the response, nothing else (R80). -/
theorem State.emit_keeps (s : State) :
    s.emit.cfg = s.cfg ∧ s.emit.regs = s.regs ∧ s.emit.pay = s.pay ∧ s.emit.live = s.live ∧
      s.emit.fault = s.fault ∧ s.emit.fsmCur = s.fsmCur ∧ s.emit.fsmLive = s.fsmLive ∧
      s.emit.dst = s.dst ∧ s.emit.delivered = s.delivered ∧ s.emit.target = s.target ∧ s.emit.inbox = s.inbox ∧
      s.emit.draws = s.draws := by
  unfold State.emit
  split <;> simp only [State.serFix, State.serLenHi, State.serPay, State.serCk1, State.serCk2] <;>
    (try split) <;> simp

/-! ### The caller's actions -/

/-- If a caller's direct write answers a next state, the byte exists and only it changes (R36). -/
theorem State.callerWrite_next {s t : State} {i : Nat} {v : Byte} {rest : List CallerAction}
    (h : s.callerWrite i v rest = .next t) :
    i < s.cfg.payBytes ∧ t = State.writePay { s with inbox := rest } i v := by
  unfold State.callerWrite at h
  split at h
  · exact ⟨‹_›, by simpa using h.symm⟩
  · cases h

/-- If a request that ended answers a next state, its operation answered one and the destination is the
caller's again (R28). -/
theorem endRequest_next {o : Host.Outcome State Fault Refusal} {t : State}
    (h : endRequest o = .next t) : ∃ t', o = .next t' ∧ t = t'.handBack := by
  cases o with
  | next t' => exact ⟨t', rfl, by simpa [endRequest] using h.symm⟩
  | fault r => cases h
  | refused r => cases h

/-- Only a `SERN n` has a destination, of `n` bytes (R28). -/
theorem destinationOf_some {i : Instr} {m : Memory} {d : Destination}
    (h : destinationOf i m = some d) : ∃ n, i = .sern n ∧ d = Destination.supply n m := by
  cases i <;> simp only [destinationOf] at h <;> cases h
  exact ⟨_, rfl, rfl⟩

/-- If a step answers a next state, it is one of these: nothing was pending, the caller wrote a byte,
an illegal word raised its fault, or the operation ran and handed its destination back. -/
theorem step_next {s t : State} (h : step s = .next t) : s.Ready ∧
    ((s.inbox = [] ∧ t = s) ∨
     (∃ i v rest, s.inbox = .writePay i v :: rest ∧ s.callerWrite i v rest = .next t) ∨
     (∃ u w d rest e, s.inbox = .request u w d :: rest ∧ decode w = .error e ∧
       t = (s.serve u none rest).raise .reserved) ∨
     (∃ u w d rest i, s.inbox = .request u w d :: rest ∧ decode w = .ok i ∧
       ∃ t', exec i (s.serve u (destinationOf i d) rest) = .next t' ∧ t = t'.handBack)) := by
  obtain ⟨hr, hk⟩ := State.permit_next h
  refine ⟨hr, ?_⟩
  unfold fetch at hk
  cases hi : s.inbox with
  | nil => simp only [hi] at hk; exact .inl ⟨rfl, by simpa using hk.symm⟩
  | cons a rest =>
    cases a with
    | writePay i v => simp only [hi] at hk; exact .inr (.inl ⟨i, v, rest, rfl, hk⟩)
    | request u w d =>
      simp only [hi] at hk
      cases hd : decode w with
      | error e =>
        simp only [hd] at hk
        exact .inr (.inr (.inl ⟨u, w, d, rest, e, rfl, hd, by simpa using hk.symm⟩))
      | ok i =>
        simp only [hd] at hk
        obtain ⟨t', he, ht⟩ := endRequest_next hk
        exact .inr (.inr (.inr ⟨u, w, d, rest, i, rfl, hd, t', he, ht⟩))

end Sys2Proof.Machine
end

