-- ==== Sys2Proof/Laws/PerInstr.lean ====
section
/-!
SUPPORT. Facts about every operation as syntax, one lemma per constructor.
-/
namespace Sys2Proof.Laws.EncodedFields

/-- The request word of an operation carries its fields, and the reserved field is zero (30_encoding
R52, R55). -/
def Statement (i : Instr) : Prop := splitWord (encode i) = fieldsOf i ∧ (fieldsOf i).z = 0

theorem init : Statement .init := ⟨splitWord_joinWord _, rfl⟩
theorem deser (d : Byte) : Statement (.deser d) := ⟨splitWord_joinWord _, rfl⟩
theorem serb : Statement .serb := ⟨splitWord_joinWord _, rfl⟩
theorem sern (n : Nat) : Statement (.sern n) := ⟨splitWord_joinWord _, rfl⟩
theorem update : Statement .update := ⟨splitWord_joinWord _, rfl⟩
theorem cksum : Statement .cksum := ⟨splitWord_joinWord _, rfl⟩
theorem valid : Statement .valid := ⟨splitWord_joinWord _, rfl⟩
theorem payrd (i : Nat) : Statement (.payrd i) := ⟨splitWord_joinWord _, rfl⟩
theorem paywr (i : Nat) (d : Byte) : Statement (.paywr i d) := ⟨splitWord_joinWord _, rfl⟩
theorem fldrd (r : Reg) : Statement (.fldrd r) := ⟨splitWord_joinWord _, rfl⟩
theorem fldwr (r : Reg) (d : Byte) : Statement (.fldwr r d) := ⟨splitWord_joinWord _, rfl⟩
theorem current : Statement .current := ⟨splitWord_joinWord _, rfl⟩
theorem advance : Statement .advance := ⟨splitWord_joinWord _, rfl⟩
theorem reset : Statement .reset := ⟨splitWord_joinWord _, rfl⟩

end Sys2Proof.Laws.EncodedFields
end

