-- ==== Sys2Proof/Laws/Run.lean ====
section
/-!
SUPPORT. What a sequence of operations does, from what each of them does.
-/
namespace Sys2Proof.Machine

@[simp] theorem runAll_nil (s : State) : runAll [] s = .next ([], s) := rfl

/-- A sequence whose first operation and rest answer next states answers their responses in order. -/
theorem runAll_cons {i : Instr} {is : List Instr} {s t u : State} {rs : List (Option Word64)}
    (h : exec i s = .next t) (h' : runAll is t = .next (rs, u)) :
    runAll (i :: is) s = .next (t.response :: rs, u) := by
  simp [runAll, h, h']

/-- If a sequence answers a next state, so do its first operation and its rest. -/
theorem runAll_cons_next {i : Instr} {is : List Instr} {s u : State} {qs : List (Option Word64)}
    (h : runAll (i :: is) s = .next (qs, u)) :
    ∃ t rs, exec i s = .next t ∧ runAll is t = .next (rs, u) ∧ qs = t.response :: rs := by
  simp only [runAll] at h
  cases hi : exec i s with
  | fault r => rw [hi] at h; cases h
  | refused r => rw [hi] at h; cases h
  | next t =>
    rw [hi] at h
    cases hr : runAll is t with
    | fault r => simp only [hr] at h; cases h
    | refused r => simp only [hr] at h; cases h
    | next p =>
      obtain ⟨rs, t'⟩ := p
      simp only [hr] at h
      cases h
      exact ⟨t, rs, rfl, hr, rfl⟩

/-- One sequence after another. -/
theorem runAll_append {is js : List Instr} {s t u : State} {rs qs : List (Option Word64)}
    (h : runAll is s = .next (rs, t)) (h' : runAll js t = .next (qs, u)) :
    runAll (is ++ js) s = .next (rs ++ qs, u) := by
  induction is generalizing s rs with
  | nil => cases h; exact h'
  | cons i is ih =>
    obtain ⟨t', rs', hi, hr, rfl⟩ := runAll_cons_next h
    exact runAll_cons hi (ih hr)

/-- `SENDALL` goes on after a byte with `ok = 1`. -/
theorem sendUpTo_more {k : Nat} {s s' t : State} {b : Byte} {bs : List Byte}
    (h : exec .serb s = .next s') (hr : s'.response = some (respondEmit true b))
    (h' : sendUpTo k s' = .next (bs, t)) : sendUpTo (k + 1) s = .next (b :: bs, t) := by
  simp [sendUpTo, h, hr, h', respondEmit]

/-- `SENDALL` ends with the byte that has `ok = 0`, that byte included (42_serialize R87). -/
theorem sendUpTo_last {k : Nat} {s s' : State} {b : Byte} (h : exec .serb s = .next s')
    (hr : s'.response = some (respondEmit false b)) : sendUpTo (k + 1) s = .next ([b], s') := by
  simp [sendUpTo, h, hr, respondEmit]

/-- A frame is eight bytes longer than its payload (30_encoding R48, R49). -/
@[simp] theorem wireFrame_length (p : PacketRegs) (ps : List Byte) :
    (wireFrame p ps).length = ps.length + overhead := by
  simp [wireFrame, overhead]

@[simp] theorem State.bulkFrame_length (s : State) : s.bulkFrame.length = s.lenNat + overhead := by
  simp [State.bulkFrame]

/-- A whole frame in a destination with room keeps it well-formed: no byte at or past its size
(20_memory R28, 42_serialize R94). -/
theorem Destination.writeFrame_wf {d : Destination} (h : d.wf = true) (s : State)
    (hn : s.lenNat + overhead ≤ d.size) :
    Destination.wf { d with bytes := d.bytes.writeAll 0 s.bulkFrame } = true := by
  simp only [Destination.wf, Bool.and_eq_true] at h ⊢
  exact ⟨Memory.writeAll_wf h.1 _ _, Memory.writeAll_below h.2 _ _ (by simpa using hn)⟩

/-- What `SERN` does: the count 0 and nothing else, or the frame, its count and at most one counted use
of free bytes (42_serialize R90, R91). -/
theorem State.bulk_cases (s : State) (n : Nat) :
    (n < s.lenNat + overhead ∧ s.bulk n = s.reply (respondCount 0)) ∨
    (s.lenNat + overhead ≤ n ∧ s.bulk n =
      (s.writeDst 0 s.bulkFrame).drewOverrun.reply (respondCount (s.lenNat + overhead))) := by
  unfold State.bulk
  split
  · exact .inl ⟨‹_›, rfl⟩
  · exact .inr ⟨by omega, rfl⟩

end Sys2Proof.Machine
end

