-- ==== Sys2Proof/Machine/Assembly.lean ====
section
/-!
DEFINITION. The assembly spelling of an operation and of a pseudo-operation (30_encoding R59, R60),
read from a line of characters. Spaces around an operand are ignored and a line that is not of
R59's or R60's form is refused. DESIGN CHOICE (safe): log 13.
-/
namespace Sys2Proof.Machine

/-- A line of assembly text: operations in order, or `SENDALL`, whose length depends on the
responses (R60). -/
inductive AsmLine where
  | ops (is : List Instr)
  | sendAll
  deriving DecidableEq, Repr

/-- The value of a digit, decimal or hexadecimal. -/
def digitValue (c : Char) : Option Nat :=
  let n := c.toNat
  if 48 ≤ n ∧ n ≤ 57 then some (n - 48)
  else if 97 ≤ n ∧ n ≤ 102 then some (n - 87)
  else if 65 ≤ n ∧ n ≤ 70 then some (n - 55)
  else none

/-- The number a row of digits spells in a base, most significant first, onto `acc`. -/
def readDigits (base : Nat) : Nat → List Char → Option Nat
  | acc, [] => some acc
  | acc, c :: cs =>
    match digitValue c with
    | some v => if v < base then readDigits base (acc * base + v) cs else none
    | none => none

/-- A number: decimal or `0x` hexadecimal (R59). -/
def readNat : List Char → Option Nat
  | [] => none
  | ['0', 'x'] => none
  | '0' :: 'x' :: cs => readDigits 16 0 cs
  | cs => readDigits 10 0 cs

/-- A data byte. -/
def readByte (cs : List Char) : Option Byte :=
  match readNat cs with
  | some n => if n < 256 then some (BitVec.ofNat 8 n) else none
  | none => none

/-- An index or a capacity that the field `a` can spell. -/
def readArg (cs : List Char) : Option Nat :=
  match readNat cs with
  | some n => if fitsA n then some n else none
  | none => none

/-- A packet register's name (R59). -/
def readReg (cs : List Char) : Option Reg :=
  if cs = ['m', '1'] then some .m1
  else if cs = ['m', '2'] then some .m2
  else if cs = ['c', 'l', 's'] then some .cls
  else if cs = ['i', 'd'] then some .id
  else if cs = ['l', 'e', 'n', '_', 'l', 'o'] then some .lenLo
  else if cs = ['l', 'e', 'n', '_', 'h', 'i'] then some .lenHi
  else if cs = ['c', 'k', '_', 'a'] then some .ckA
  else if cs = ['c', 'k', '_', 'b'] then some .ckB
  else none

/-- The text without the spaces at its two ends. -/
def trimSpaces (cs : List Char) : List Char :=
  ((cs.dropWhile (· = ' ')).reverse.dropWhile (· = ' ')).reverse

/-- The text cut at each comma. -/
def splitCommas : List Char → List (List Char)
  | [] => [[]]
  | c :: cs =>
    match splitCommas cs with
    | [] => [[c]]
    | p :: ps => if c = ',' then [] :: p :: ps else (c :: p) :: ps

/-- The operands after a mnemonic: none, or separated by commas (R59). -/
def operandsOf (cs : List Char) : List (List Char) :=
  if trimSpaces cs = [] then [] else (splitCommas cs).map trimSpaces

/-- Every text of a list read by `f`, or nothing. -/
def readEach {α : Type} (f : List Char → Option α) : List (List Char) → Option (List α)
  | [] => some []
  | t :: ts =>
    match f t, readEach f ts with
    | some x, some xs => some (x :: xs)
    | _, _ => none

/-- An operation with one operand. -/
def asmOne {α : Type} (f : List Char → Option α) (k : α → AsmLine) :
    List (List Char) → Option AsmLine
  | [t] => (f t).map k
  | _ => none

/-- An operation with two operands. -/
def asmTwo {α β : Type} (f : List Char → Option α) (g : List Char → Option β)
    (k : α → β → AsmLine) : List (List Char) → Option AsmLine
  | [t, u] =>
    match f t, g u with
    | some x, some y => some (k x y)
    | _, _ => none
  | _ => none

/-- An operation with no operand. -/
def asmBare (l : AsmLine) : List (List Char) → Option AsmLine
  | [] => some l
  | _ => none

/-- What a mnemonic makes of its operands (R53, R59, R60). -/
def asmLine (m : List Char) (ts : List (List Char)) : Option AsmLine :=
  if m = ['I', 'N', 'I', 'T'] then asmBare (.ops [.init]) ts
  else if m = ['D', 'E', 'S', 'E', 'R'] then asmOne readByte (fun d => .ops [.deser d]) ts
  else if m = ['S', 'E', 'R', 'B'] then asmBare (.ops [.serb]) ts
  else if m = ['S', 'E', 'R', 'N'] then asmOne readArg (fun n => .ops [.sern n]) ts
  else if m = ['U', 'P', 'D', 'A', 'T', 'E'] then asmBare (.ops [.update]) ts
  else if m = ['C', 'K', 'S', 'U', 'M'] then asmBare (.ops [.cksum]) ts
  else if m = ['V', 'A', 'L', 'I', 'D'] then asmBare (.ops [.valid]) ts
  else if m = ['P', 'A', 'Y', 'R', 'D'] then asmOne readArg (fun i => .ops [.payrd i]) ts
  else if m = ['P', 'A', 'Y', 'W', 'R'] then
    asmTwo readArg readByte (fun i d => .ops [.paywr i d]) ts
  else if m = ['F', 'L', 'D', 'R', 'D'] then asmOne readReg (fun r => .ops [.fldrd r]) ts
  else if m = ['F', 'L', 'D', 'W', 'R'] then
    asmTwo readReg readByte (fun r d => .ops [.fldwr r d]) ts
  else if m = ['C', 'U', 'R', 'R', 'E', 'N', 'T'] then asmBare (.ops [.current]) ts
  else if m = ['A', 'D', 'V', 'A', 'N', 'C', 'E'] then asmBare (.ops [.advance]) ts
  else if m = ['R', 'E', 'S', 'E', 'T'] then asmBare (.ops [.reset]) ts
  else if m = ['S', 'E', 'N', 'D', 'A', 'L', 'L'] then asmBare .sendAll ts
  else if m = ['S', 'E', 'T', 'L', 'E', 'N'] then
    asmOne (fun t => (readNat t).filter fun n => n ≤ 65535) (fun n => .ops (setLen n)) ts
  else if m = ['F', 'E', 'E', 'D'] then
    match ts with
    | [] => none
    | _ => (readEach readByte ts).map fun ds => .ops (feed ds)
  else if m = ['L', 'O', 'A', 'D', 'P', 'A', 'Y'] then
    match ts with
    | t :: u :: us =>
      match readArg t, readEach readByte (u :: us) with
      | some i, some ds => if fitsA (i + us.length) then some (.ops (loadPay i ds)) else none
      | _, _ => none
    | _ => none
  else none

/-- One line of assembly text (R59): the mnemonic, then its operands. -/
def assemble (line : List Char) : Option AsmLine :=
  let cs := trimSpaces line
  asmLine (cs.takeWhile (· ≠ ' ')) (operandsOf (cs.dropWhile (· ≠ ' ')))

end Sys2Proof.Machine
end

