-- ==== Sys2Proof/Tests/Slice0.lean ====
section
/-!
SUPPORT. The model's own tests. Expected results come from 95_test_vectors (the vector is named) or
from the encodings of 30_encoding R52 to R54; then, for each statement with hypotheses, a state and
operands that meet them.
-/
namespace Sys2Proof.Tests

open Sys2Proof.Machine

/-! ### Well-formedness: an ill-formed term for each check -/

theorem test_sern_capacity_too_wide : (Instr.sern (2 ^ 32)).wf = false := by decide
theorem test_payrd_index_too_wide : (Instr.payrd (2 ^ 32)).wf = false := by decide
theorem test_paywr_index_too_wide : (Instr.paywr (2 ^ 32) 0).wf = false := by decide
/-- V-AC-11. -/
theorem test_zero_capacity_refused : { Config.vectors with cap := 0 }.wf = false := by decide
theorem test_oversize_capacity_refused : { Config.vectors with cap := 2 ^ 32 }.wf = false ∧
    { Config.vectors with hasBuf := false, cap := 2 ^ 32 }.wf = false := by decide
theorem test_capacity_bounds_accepted : { Config.vectors with cap := 1 }.wf = true ∧
    { Config.vectors with cap := 2 ^ 32 - 1 }.wf = true ∧
    { Config.vectors with hasBuf := false, cap := 0 }.wf = true := by decide

/-! ### Decoding: each operation's word, written out from R52 to R54 -/

theorem test_decode_init : decode 0x0000000000000001#64 = .ok .init := by decide
theorem test_decode_deser : decode 0x000000000000B502#64 = .ok (.deser 0xB5) := by decide
theorem test_decode_serb : decode 0x0000000000000003#64 = .ok .serb := by decide
theorem test_decode_sern : decode 0x0000000A00000004#64 = .ok (.sern 10) := by decide
theorem test_decode_update : decode 0x0000000000000005#64 = .ok .update := by decide
theorem test_decode_cksum : decode 0x0000000000000006#64 = .ok .cksum := by decide
theorem test_decode_valid : decode 0x0000000000000007#64 = .ok .valid := by decide
theorem test_decode_payrd : decode 0xFFFFFFFF00000008#64 = .ok (.payrd 4294967295) := by decide
theorem test_decode_paywr : decode 0x000000010000BB09#64 = .ok (.paywr 1 0xBB) := by decide
theorem test_decode_fldrd : decode 0x000000000000005A#64 = .ok (.fldrd .lenHi) := by decide
theorem test_decode_fldwr : decode 0x000000000000012B#64 = .ok (.fldwr .cls 0x01) := by decide
theorem test_decode_current : decode 0x000000000000000C#64 = .ok .current := by decide
theorem test_decode_advance : decode 0x000000000000000D#64 = .ok .advance := by decide
theorem test_decode_reset : decode 0x000000000000000E#64 = .ok .reset := by decide
/-- One word for each ground of R55: reserved codes, `z`, each unused field, a reserved selector
(V-FSM-13, V-DS-11, V-SB-5, V-AC-6, V-IN-5). -/
theorem test_decode_rejects_by_name :
    decode 0x0000000000000000#64 = .error .reservedOp ∧
    decode 0x000000000000000F#64 = .error .reservedOp ∧
    decode 0x0000000000010002#64 = .error .reservedBits ∧
    decode 0x0000000000000013#64 = .error .unusedField ∧
    decode 0x000000000000010C#64 = .error .unusedField ∧
    decode 0x000000010000B502#64 = .error .unusedField ∧
    decode 0x000000000000008A#64 = .error .reservedSelector := by decide
theorem test_encode_words :
    encode (.deser 0xB5) = 0x000000000000B502#64 ∧ encode (.sern 10) = 0x0000000A00000004#64 ∧
    encode (.paywr 1 0xBB) = 0x000000010000BB09#64 ∧
    encode (.fldwr .cls 0x01) = 0x000000000000012B#64 ∧
    encode (.fldrd .lenHi) = 0x000000000000005A#64 := by decide

/-! ### The states the tests start from -/

/-- The next state of an outcome. -/
def after : Host.Outcome State Fault Refusal → Option State
  | .next s => some s
  | .fault _ => none
  | .refused _ => none

/-- The block right after `INIT`, the standalone FSM right after `RESET`. -/
def started : State := { State.reset.initialised with fsmLive := true }

/-- The block after `INIT` at a cursor position. -/
def at_ (c : Cursor) : State := { started with cur := c }

/-- The packet of the source's example (E1) after `UPDATE`: class 1, id 2, two payload bytes. -/
def packet : State :=
  { started with
    regs := ⟨0xB5, 0x62, 0x01, 0x02, 0x02, 0x00, 0x6A, 0x27⟩, pay := [(0, 0xAA), (1, 0xBB)] }

/-- The same packet at a cursor position and count. -/
def packetAt (c : Cursor) (n : Half) : State := { packet with cur := c, cnt := n }

/-- The packet of V-SB-4 and V-SN-5: four payload bytes declared, capacity two. -/
def overrunPacket : State :=
  { started with
    cfg := { Config.vectors with cap := 2 }
    regs := ⟨0xB5, 0x62, 0x01, 0x02, 0x04, 0x00, 0x3A, 0x64⟩, pay := [(0, 0x11), (1, 0x22)] }

/-- The same under `DRAW`. -/
def drawPacket : State :=
  { overrunPacket with cfg := { overrunPacket.cfg with chkOverrun := .draw } }

/-- The packet of V-SB-3: no buffer, two payload bytes declared. -/
def bare : State :=
  { started with
    cfg := { Config.vectors with hasBuf := false }
    regs := ⟨0xB5, 0x62, 0x01, 0x02, 0x02, 0x00, 0x05, 0x0E⟩ }

/-- The buffer of V-AC-1. -/
def four : State :=
  { started with
    cfg := { Config.vectors with cap := 4 }
    pay := [(0, 0x10), (1, 0x20), (2, 0x30), (3, 0x40)] }

/-- The standalone FSM after `RESET`, at a cursor position. -/
def fsmAt (c : Cursor) : State := { started with target := .fsm, fsmCur := c }

/-- Power-on, with register contents the spec leaves unspecified. -/
def off : State :=
  State.powerOn Config.vectors ⟨1, 2, 3, 4, 5, 6, 7, 8⟩ .ck2 9 .ck1 [(0, 0xAA)]

/-- A destination of `n` zero bytes, and a state during a `SERN` with it. -/
def room (n : Nat) : Destination := Destination.supply n []
def withRoom (s : State) (n : Nat) : State := { s with dst := some (room n) }

/-! ### One step of each operation -/

/-- V-IN-1, V-IN-2: from power-on and with bytes in the buffer. -/
theorem test_init_from_power_on :
    (after (exec .init off)).map (fun s => (s.regs.m1, s.regs.lenHi, s.cur)) =
      some (0xB5, 0x00, .marker1) ∧
    (after (exec .init off)).map (fun s => (s.cnt, s.live, s.pay.read 0)) =
      some (0, true, 0xAA) := by decide

/-- V-DS-1, byte 0x6A: the fall-through. -/
theorem test_deser_falls_through :
    (after (exec (.deser 0x6A) (packetAt .payload 2))).map
        (fun s => (s.regs.ckA, s.cur, s.cnt, s.response)) =
      some (0x6A, .ck2, 2, some 0#64) := by decide
/-- V-DS-6, wire index 7: the last byte that fits. -/
theorem test_deser_stores_last_byte_that_fits :
    (after (exec (.deser 0x22) { overrunPacket with pay := [(0, 0x11)], cur := .payload, cnt := 1 })).map
        (fun s => (s.pay, s.cur, s.cnt)) =
      some ([(0, 0x11), (1, 0x22)], .payload, 2) := by decide

/-- V-SB-1, call 8. -/
theorem test_serb_payload_byte :
    (after (exec .serb (packetAt .payload 1))).map (fun s => (s.response, s.cur, s.cnt)) =
      some (some 0xBB01#64, .payload, 2) := by decide
/-- V-SB-1, call 10: `ok = 0` with the last byte. -/
theorem test_serb_last_byte :
    (after (exec .serb (packetAt .ck2 2))).map (fun s => (s.response, s.cur)) =
      some (some 0x2700#64, .marker1) := by decide

/-- V-SN-3. -/
theorem test_sern_writes_the_frame :
    (after (exec (.sern 12) { packet with dst := some ⟨12, [(10, 0x55), (11, 0x56)]⟩ })).map
        (fun s => (s.response, s.dst.map fun d => (d.size, (List.range 12).map d.bytes.read))) =
      some (some 0x0000000A00000000#64,
        some (12, [0xB5, 0x62, 0x01, 0x02, 0x02, 0x00, 0xAA, 0xBB, 0x6A, 0x27, 0x55, 0x56])) := by decide
/-- V-SN-4: the zero-filled payload. -/
theorem test_sern_zero_fills_without_buffer :
    (after (exec (.sern 10) { bare with dst := some ⟨10, [(6, 0x55)]⟩ })).map
        (fun s => (s.response, s.dst.map fun d => (List.range 10).map d.bytes.read)) =
      some (some 0x0000000A00000000#64,
        some [0xB5, 0x62, 0x01, 0x02, 0x02, 0x00, 0x00, 0x00, 0x05, 0x0E]) := by decide

/-- V-CK-1. -/
theorem test_update_example :
    (after (exec .update { packet with regs := { packet.regs with ckA := 0, ckB := 0 } })).map
        (fun s => s.regs) = some packet.regs := by decide
/-- V-SB-4: the truncated pair. -/
theorem test_update_truncates :
    (after (exec .update { overrunPacket with regs := { overrunPacket.regs with ckA := 0 } })).map
        (fun s => (s.regs.ckA, s.regs.ckB)) = some (0x3A, 0x64) := by decide

/-- V-CK-2. -/
theorem test_cksum_example :
    (after (exec .cksum packet)).map (fun s => s.response) = some (some 0x276A0000#64) := by decide
/-- V-CK-5: both accumulators wrap. -/
theorem test_cksum_wraps :
    (after (exec .cksum { started with regs := { started.regs with cls := 0xFF, id := 0xFF } })).map
        (fun s => s.response) = some (some 0xF9FE0000#64) := by decide

/-- V-CK-7: two lengths with one pair. -/
theorem test_valid_length_change_can_cancel :
    (after (exec .valid { packet with
        regs := { packet.regs with lenLo := 0, ckA := 0x03, ckB := 0x0A } })).map
        (fun s => s.response) = some (some 1#64) := by decide
/-- V-CK-8. -/
theorem test_valid_stored_pair_changed :
    (after (exec .valid { packet with regs := { packet.regs with ckA := 0 } })).map
        (fun s => s.response) = some (some 0#64) := by decide

/-- V-AC-1: the clamp at the largest index. -/
theorem test_payrd_clamps :
    (after (exec (.payrd 0xFFFFFFFF) four)).map (fun s => s.response) = some (some 0x4000#64) := by
  decide
/-- V-AC-1. -/
theorem test_payrd_in_range :
    (after (exec (.payrd 2) four)).map (fun s => s.response) = some (some 0x3000#64) := by decide
/-- V-AC-2. -/
theorem test_paywr_clamps :
    (after (exec (.paywr 7 0x55) four)).map (fun s => s.pay) =
      some [(0, 0x10), (1, 0x20), (2, 0x30), (3, 0x55)] := by decide
/-- V-AC-4. -/
theorem test_paywr_without_buffer :
    (after (exec (.paywr 0 0x77) bare)).map (fun s => s.pay) = some [] := by decide

/-- V-AC-7. -/
theorem test_fldrd_m2 :
    (after (exec (.fldrd .m2) started)).map (fun s => s.response) = some (some 0x6200#64) := by
  decide
/-- V-AC-5. -/
theorem test_fldwr_id :
    (after (exec (.fldwr .id 0x99) packet)).map (fun s => (s.regs, s.cur, s.cnt)) =
      some ({ packet.regs with id := 0x99 }, packet.cur, packet.cnt) := by decide

/-- V-FSM-5 and V-FSM-10: each unit's own cursor. -/
theorem test_current_both_units :
    (after (exec .current (fsmAt .ck2))).map (fun s => s.response) = some (some 0x0800#64) ∧
    (after (exec .current (at_ .lenHi))).map (fun s => s.response) = some (some 0x0500#64) := by
  decide
/-- V-FSM-6. -/
theorem test_advance_wraps :
    (after (exec .advance (fsmAt .ck2))).map (fun s => (s.fsmCur, s.cur)) =
      some (.marker1, .marker1) := by decide
/-- V-FSM-8 and V-FSM-3. -/
theorem test_reset_rewinds :
    (after (exec .reset (fsmAt .lenHi))).map (fun s => s.fsmCur) = some .marker1 ∧
    (after (exec .reset { off with target := .fsm })).map (fun s => (s.fsmCur, s.fsmLive)) =
      some (.marker1, true) := by decide

/-! ### Faults, fetch and the caller -/

/-- V-FSM-1, V-CK-15. -/
theorem test_not_init :
    (after (exec .current { off with target := .fsm })).map (fun s => s.fault) =
      some (some .notInit) ∧
    (after (exec .valid off)).map (fun s => s.fault) = some (some .notInit) := by decide
/-- V-FSM-11, V-FSM-12. -/
theorem test_wrong_unit :
    (after (exec .advance started)).map (fun s => s.fault) = some (some .reserved) ∧
    (after (exec (.deser 0xB5) (fsmAt .marker1))).map (fun s => s.fault) = some (some .reserved) := by
  decide
/-- V-IN-5: the legality check comes before the check of `live`. -/
theorem test_illegal_word_before_init :
    (after (step (off.presentWord 0x000000000000FF01#64))).map
        (fun s => (s.fault, s.response, s.live)) = some (some .reserved, none, false) := by decide
theorem test_fetch_runs_the_word :
    (after (step (started.withFetchWord 64 0xB502))).map (fun s => (s.cur, s.inbox)) =
      some (.marker2, []) := by decide
theorem test_fetch_addresses_the_fsm :
    (after (step (started.withFetchWord 64 0xD))).map (fun s => (s.fsmCur, s.fault)) =
      some (.marker2, none) := by decide
/-- R133, R135: at reset a request other than `INIT` is answered by `F_NOT_INIT`. -/
theorem test_reset_is_before_init :
    (after (step (State.reset.withFetchWord 64 0xB502))).map (fun s => (s.fault, s.response)) =
      some (some .notInit, none) ∧
    (after (step (State.reset.withFetchWord 64 0x1))).map (fun s => (s.live, s.fault)) =
      some (true, none) := by decide
/-- V-SN-2, as a request: nine bytes are too few, and the caller has its nine bytes back; a later
request has no destination (R28). -/
theorem test_destination_lasts_one_request :
    (after (step { packet with inbox := [.request .codec 0x0000000900000004#64 [(3, 0x55), (9, 0x56)]] })).map
        (fun s => (s.response, s.dst, s.delivered)) =
      some (some 0#64, none, some ⟨9, [(3, 0x55)]⟩) ∧
    (after (step { packet with
        delivered := some ⟨9, []⟩, inbox := [.request .codec 0x3#64 [(3, 0x55)]] })).map
        (fun s => (s.dst, s.delivered)) = some (none, none) := by decide
theorem test_fault_codes : FaultReason.notInit.code = 1 ∧ FaultReason.reserved.code = 2 := by decide

/-! ### Assembly text (R59 to R61) -/

theorem test_assemble_operation :
    assemble ['P', 'A', 'Y', 'W', 'R', ' ', '1', ',', ' ', '0', 'x', 'B', 'B'] =
      some (.ops [.paywr 1 0xBB]) := by decide
theorem test_assemble_pseudo :
    assemble ['S', 'E', 'T', 'L', 'E', 'N', ' ', '2', '5', '8'] =
      some (.ops [.fldwr .lenLo 0x02, .fldwr .lenHi 0x01]) := by decide
theorem test_assemble_rejects :
    assemble ['D', 'E', 'S', 'E', 'R', ' ', '2', '5', '6'] = none ∧
    assemble ['S', 'E', 'R', 'B', ' ', '1'] = none := by decide
theorem test_pseudo_expansions :
    feed [0xB5, 0x62] = [.deser 0xB5, .deser 0x62] ∧
    loadPay 3 [0xAA, 0xBB] = [.paywr 3 0xAA, .paywr 4 0xBB] := by decide

/-! ### Witnesses: states and operands that meet the hypotheses of each statement -/

/-- Any change of the block after `INIT` that keeps it serving requests serves requests. -/
theorem at_ready (c : Cursor) : (at_ c).CodecReady := ⟨⟨rfl, rfl⟩, rfl, rfl⟩
theorem packet_ready (c : Cursor) (n : Half) : (packetAt c n).CodecReady := ⟨⟨rfl, rfl⟩, rfl, rfl⟩
theorem bare_ready (c : Cursor) : State.CodecReady { bare with cur := c } := ⟨⟨rfl, rfl⟩, rfl, rfl⟩
theorem over_ready (c : Cursor) (n : Half) :
    State.CodecReady { overrunPacket with cur := c, cnt := n } := ⟨⟨rfl, rfl⟩, rfl, rfl⟩
theorem draw_ready : drawPacket.CodecReady := ⟨⟨rfl, rfl⟩, rfl, rfl⟩
theorem four_ready : four.CodecReady := ⟨⟨rfl, rfl⟩, rfl, rfl⟩
theorem fsm_ready (c : Cursor) : (fsmAt c).FsmReady := ⟨⟨rfl, rfl⟩, rfl, rfl⟩
theorem off_ready : off.Ready := ⟨rfl, rfl⟩

theorem witness_DecodeOfEncodeIsIdentity : (Instr.sern 4294967295).wf = true := by decide
theorem witness_EncodeOfDecodeIsIdentity :
    decode 0xFFFFFFFF0000FF09#64 = .ok (.paywr 4294967295 0xFF) := by decide
/-- Each ground at a boundary: `f = 7` is legal where `f = 8` is not. -/
theorem witness_IllegalWordsAreExactlyRejected :
    decode 0x000000000000008B#64 = .error .reservedSelector ∧
    decode 0x000000000000007B#64 = .ok (.fldwr .ckB 0) := by decide

theorem witness_StepRunsTheDecodedOperation :
    (started.presentWord 0x000000000000B502#64).Ready ∧
    (started.presentWord 0x000000000000B502#64).inbox =
      [.request .codec 0x000000000000B502#64 []] ∧
    decode 0x000000000000B502#64 = .ok (.deser 0xB5) := ⟨⟨rfl, rfl⟩, by decide, by decide⟩
theorem witness_IllegalWordRaisesReserved :
    (off.presentWord 0#64).Ready ∧ (off.presentWord 0#64).inbox = [.request .codec 0#64 []] ∧
    decode 0#64 = .error .reservedOp := ⟨⟨rfl, rfl⟩, by decide, by decide⟩
theorem witness_NoRequestHoldsEveryState : started.Ready ∧ started.inbox = [] :=
  ⟨⟨rfl, rfl⟩, rfl⟩
/-- The last byte that exists, the first that does not, and no buffer. -/
theorem witness_CallerWritesPayloadDirectly :
    (∀ i, State.Ready { four with inbox := [.writePay i 0x55] }) ∧ four.pay.wf = true ∧
    (four.cfg.hasBuf = true ∧ 3 < four.cfg.cap) ∧ ¬ (four.cfg.hasBuf = true ∧ 4 < four.cfg.cap) ∧
    (State.Ready { bare with inbox := [.writePay 0 0x55] } ∧ bare.pay.wf = true ∧
      ¬ (bare.cfg.hasBuf = true ∧ 0 < bare.cfg.cap)) :=
  ⟨fun _ => ⟨rfl, rfl⟩, by decide, by decide, by decide, ⟨rfl, rfl⟩, by decide, by decide⟩
/-- A `SERN` at each of its ends: too small, exactly large enough, refused by the other unit. -/
theorem witness_DestinationLastsOneRequest :
    (∃ t, step { packet with inbox := [.request .codec 0x0000000900000004#64 []] } = .next t ∧
      t.delivered = some (room 9)) ∧
    (∃ t, step { packet with inbox := [.request .codec 0x0000000A00000004#64 []] } = .next t ∧
      t.response = some 0x0000000A00000000#64) ∧
    ∃ t, step { packet with inbox := [.request .fsm 0x0000000A00000004#64 []] } = .next t ∧
      t.response = none := ⟨⟨_, rfl, by decide⟩, ⟨_, rfl, by decide⟩, _, rfl, by decide⟩
theorem witness_RequestBeforeInitRaisesNotInit :
    (off.Ready ∧ off.target = .codec ∧ off.live = false ∧
      Instr.serb ∉ [Instr.init, .advance, .reset]) ∧
    (State.Ready { off with target := .fsm } ∧ off.fsmLive = false ∧
      Instr.advance ∈ [Instr.current, .advance]) :=
  ⟨⟨off_ready, rfl, rfl, by decide⟩, ⟨rfl, rfl⟩, rfl, by decide⟩
theorem witness_WrongUnitRaisesReserved :
    (started.Ready ∧ started.target = .codec ∧ Instr.reset ∈ [Instr.advance, .reset]) ∧
    ((fsmAt .marker1).Ready ∧ (fsmAt .marker1).target = .fsm ∧
      Instr.init ∉ [Instr.current, .advance, .reset]) :=
  ⟨⟨⟨rfl, rfl⟩, rfl, by decide⟩, ⟨rfl, rfl⟩, rfl, by decide⟩
theorem witness_RecordedFaultIsFinal :
    (started.raise .reserved).cfg.wf = true ∧
    (started.raise .reserved).fault = some .reserved := by decide
theorem witness_ZeroOrOversizeCapacityRefused :
    (∃ c : Config, c.hasBuf = true ∧ c.cap = 0) ∧ (∃ c : Config, c.cap > 2 ^ 32 - 1) ∧
    ¬ ((started.cfg.hasBuf = true ∧ started.cfg.cap = 0) ∨
      started.cfg.cap > 2 ^ 32 - 1) :=
  ⟨⟨{ Config.vectors with cap := 0 }, by decide⟩, ⟨{ Config.vectors with cap := 2 ^ 32 }, by decide⟩,
    by decide⟩
theorem witness_ResponseExactlyWithoutFault :
    (∃ t, exec .init started = .next t) ∧ ∃ t, exec .advance started = .next t :=
  ⟨⟨_, rfl⟩, _, rfl⟩
theorem witness_ResponseFieldsBelongToTheirOperations :
    ∃ t, exec .serb started = .next t ∧ t.response = some 0xB501#64 := ⟨_, rfl, by decide⟩

theorem witness_InitPrimesTheBlock : off.Ready ∧ off.target = .codec := ⟨off_ready, rfl⟩
theorem witness_PowerOnNeedsInit :
    Config.vectors.wf = true ∧ Instr.current ∉ [Instr.init, .advance, .reset] ∧
    Instr.advance ∈ [Instr.current, .advance] := by decide
theorem witness_ResetIsBeforeTheFirstInit :
    Instr.deser 0xB5 ∉ [Instr.init, .advance, .reset] := by decide
theorem witness_InitLeavesValidEmptyFrame :
    off.Ready ∧ off.target = .codec ∧ (room 8).wf = true ∧ (room 8).size = 8 := ⟨off_ready, rfl, by decide, rfl⟩

theorem witness_CurrentAnswersTheOrdinal : (at_ .ck2).CodecReady ∧ (fsmAt .ck2).FsmReady :=
  ⟨at_ready _, fsm_ready _⟩
theorem witness_AdvanceMovesTheStandaloneCursor :
    (fsmAt .ck2).FsmReady ∧ (fsmAt .ck1).FsmReady := ⟨fsm_ready _, fsm_ready _⟩
theorem witness_ResetRewindsTheStandaloneCursor :
    State.Ready { off with target := .fsm } ∧ ({ off with target := .fsm } : State).target = .fsm :=
  ⟨⟨rfl, rfl⟩, rfl⟩
theorem witness_NineAdvancesReturn : (fsmAt .payload).FsmReady := fsm_ready _
theorem witness_CursorMovesAtMostTwo : ∃ t, exec .serb (at_ .payload) = .next t := ⟨_, rfl⟩

theorem witness_DeserMarkerArms :
    ((at_ .marker1).CodecReady ∧ (0xB5 : Byte) = (at_ .marker1).cfg.m1) ∧
    ((at_ .marker2).CodecReady ∧ (0x62 : Byte) = (at_ .marker2).cfg.m2) ∧
    (0x13 : Byte) ≠ (at_ .marker1).cfg.m1 ∧ (0x13 : Byte) ≠ (at_ .marker2).cfg.m2 :=
  ⟨⟨at_ready _, rfl⟩, ⟨at_ready _, rfl⟩, by decide, by decide⟩
theorem witness_DeserHeaderArms :
    (at_ .cls).CodecReady ∧ (at_ .id).CodecReady ∧ (at_ .lenLo).CodecReady :=
  ⟨at_ready _, at_ready _, at_ready _⟩
theorem witness_DeserLengthHighArm : (at_ .lenHi).CodecReady ∧ (at_ .lenHi).cur = .lenHi :=
  ⟨at_ready _, rfl⟩
/-- The last byte that the declared length and the capacity still permit. -/
theorem witness_DeserStoresPayloadByte :
    (State.CodecReady { overrunPacket with cur := .payload, cnt := 1 }) ∧
    overrunPacket.pay.wf = true ∧ overrunPacket.cfg.hasBuf = true ∧
    (1 : Half).toNat < overrunPacket.regs.lenLo.toNat + 256 * overrunPacket.regs.lenHi.toNat ∧
    (1 : Half).toNat < overrunPacket.cfg.cap :=
  ⟨over_ready _ _, by decide, by decide, by decide, by decide⟩
/-- The declared length reached, the capacity reached, and no buffer. -/
theorem witness_DeserFallsThroughToChecksum :
    ((packetAt .payload 2).CodecReady ∧
      ¬ (2 : Half).toNat < packet.regs.lenLo.toNat + 256 * packet.regs.lenHi.toNat) ∧
    (State.CodecReady { overrunPacket with cur := .payload, cnt := 2 } ∧
      ¬ (2 : Half).toNat < overrunPacket.cfg.cap) ∧
    (State.CodecReady { bare with cur := .payload } ∧ bare.cfg.hasBuf = false) :=
  ⟨⟨packet_ready _ _, by decide⟩, ⟨over_ready _ _, by decide⟩, bare_ready _, rfl⟩
theorem witness_DeserChecksumArms : (at_ .ck1).CodecReady ∧ (at_ .ck2).CodecReady :=
  ⟨at_ready _, at_ready _⟩
theorem witness_DeserCompletesExactlyAtSecondChecksum :
    (at_ .ck2).CodecReady ∧ ∃ t, exec (.deser 0x27) (at_ .ck2) = .next t := ⟨at_ready _, _, rfl⟩
/-- A payload that fills the buffer, one the capacity cuts off, and none without a buffer. -/
theorem witness_FedFrameIsReconstructed :
    ((at_ .marker1).CodecReady ∧ (at_ .marker1).pay.wf = true ∧
      (List.replicate 8 (0xAA : Byte)).length = min (8 + 256 * 0) (at_ .marker1).cfg.cap ∧
      (List.replicate 8 (0xAA : Byte)).length = min (0 + 256 * 1) (at_ .marker1).cfg.cap) ∧
    (State.CodecReady { bare with cur := .marker1 } ∧ bare.pay.wf = true ∧
      bare.cfg.hasBuf = false ∧ ([] : List Byte).length = 0) :=
  ⟨⟨at_ready _, by decide, by decide, by decide⟩, bare_ready _, by decide, rfl, rfl⟩
theorem witness_SearchDropsForeignBytes :
    (at_ .marker1).CodecReady ∧ (at_ .marker1).cfg.m1 ∉ [(0x62 : Byte), 0x13, 0xB4] :=
  ⟨at_ready _, by decide⟩
theorem witness_FalseStartRestartsTheSearch :
    (at_ .marker1).CodecReady ∧ (0xB5 : Byte) ≠ (at_ .marker1).cfg.m2 := ⟨at_ready _, by decide⟩

theorem witness_SerbFixedArms : (at_ .marker1).CodecReady ∧ (at_ .marker2).CodecReady ∧
    (at_ .cls).CodecReady ∧ (at_ .id).CodecReady ∧ (at_ .lenLo).CodecReady :=
  ⟨at_ready _, at_ready _, at_ready _, at_ready _, at_ready _⟩
theorem witness_SerbLengthHighArm : (at_ .lenHi).CodecReady ∧ (at_ .lenHi).cur = .lenHi :=
  ⟨at_ready _, rfl⟩
theorem witness_SerbPayloadArm :
    (packetAt .payload 1).CodecReady ∧ (packetAt .payload 2).CodecReady ∧
    State.CodecReady { overrunPacket with cur := .payload, cnt := 2 } ∧
    State.CodecReady { bare with cur := .payload } :=
  ⟨packet_ready _ _, packet_ready _ _, over_ready _ _, bare_ready _⟩
theorem witness_SerbChecksumArms : (at_ .ck1).CodecReady ∧ (at_ .ck2).CodecReady :=
  ⟨at_ready _, at_ready _⟩
theorem witness_SendAllEmitsTheFrame :
    ((packetAt .marker1 0).CodecReady ∧ (2 : Nat) =
      min (packet.regs.lenLo.toNat + 256 * packet.regs.lenHi.toNat) packet.cfg.cap) ∧
    (State.CodecReady { overrunPacket with cur := .marker1, cnt := 0 } ∧ (2 : Nat) =
      min (overrunPacket.regs.lenLo.toNat + 256 * overrunPacket.regs.lenHi.toNat)
        overrunPacket.cfg.cap) ∧
    (State.CodecReady { bare with cur := .marker1 } ∧ bare.cfg.hasBuf = false) :=
  ⟨⟨packet_ready _ _, by decide⟩, ⟨over_ready _ _, by decide⟩, bare_ready _, rfl⟩

/-- One byte short of the frame (V-SN-2). -/
theorem witness_SernWithoutRoomWritesNothing :
    (packetAt .marker1 0).CodecReady ∧
    9 < packet.regs.lenLo.toNat + 256 * packet.regs.lenHi.toNat + 8 := ⟨packet_ready _ _, by decide⟩
/-- Exactly the frame (V-SN-1), an overrun (V-SN-5), and no buffer (V-SN-4). -/
theorem witness_SernWritesTheWholeFrame :
    ((withRoom (packetAt .marker1 0) 10).CodecReady ∧
      (withRoom (packetAt .marker1 0) 10).dst = some (room 10) ∧ (room 10).wf = true ∧
      (room 10).size = 10 ∧
      2 = packet.regs.lenLo.toNat + 256 * packet.regs.lenHi.toNat ∧ 2 + 8 ≤ 10) ∧
    ((withRoom overrunPacket 12).CodecReady ∧ (withRoom overrunPacket 12).dst = some (room 12) ∧
      4 = overrunPacket.regs.lenLo.toNat + 256 * overrunPacket.regs.lenHi.toNat ∧ 4 + 8 ≤ 12) ∧
    ((withRoom bare 10).CodecReady ∧ (withRoom bare 10).dst = some (room 10) ∧
      2 = bare.regs.lenLo.toNat + 256 * bare.regs.lenHi.toNat ∧ 2 + 8 ≤ 10) :=
  ⟨⟨⟨⟨rfl, rfl⟩, rfl, rfl⟩, rfl, by decide, rfl, by decide, by decide⟩,
    ⟨⟨⟨rfl, rfl⟩, rfl, rfl⟩, rfl, by decide, by decide⟩,
    ⟨⟨rfl, rfl⟩, rfl, rfl⟩, rfl, by decide, by decide⟩
theorem witness_BulkAndIncrementalAgree :
    (withRoom (packetAt .marker1 0) 10).CodecReady ∧
    (withRoom (packetAt .marker1 0) 10).cur = .marker1 ∧
    (withRoom (packetAt .marker1 0) 10).dst = some (room 10) ∧ (room 10).wf = true ∧
    (room 10).size = 10 ∧ packet.cfg.hasBuf = true ∧
    2 = packet.regs.lenLo.toNat + 256 * packet.regs.lenHi.toNat ∧ 2 ≤ packet.cfg.cap ∧
    2 + 8 ≤ 10 :=
  ⟨⟨⟨rfl, rfl⟩, rfl, rfl⟩, rfl, rfl, by decide, rfl, by decide, by decide, by decide, by decide⟩
/-- Program P1 of 95_test_vectors: the example packet into a block after `INIT`. -/
theorem witness_LoopbackReconstructsThePacket :
    (packetAt .marker1 0).CodecReady ∧ (at_ .marker1).CodecReady ∧
    (at_ .marker1).cur = .marker1 ∧ (room 10).wf = true ∧ (room 10).size = 10 ∧
    (at_ .marker1).pay.wf = true ∧
    packet.cfg.hasBuf = true ∧ (at_ .marker1).cfg.hasBuf = true ∧
    2 = packet.regs.lenLo.toNat + 256 * packet.regs.lenHi.toNat ∧ 2 ≤ packet.cfg.cap ∧
    2 ≤ (at_ .marker1).cfg.cap ∧ packet.regs.m1 = (at_ .marker1).cfg.m1 ∧
    packet.regs.m2 = (at_ .marker1).cfg.m2 ∧ 2 + 8 ≤ 10 :=
  ⟨packet_ready _ _, at_ready _, rfl, by decide, rfl, by decide, by decide, by decide, by decide,
    by decide, by decide, by decide, by decide, by decide⟩

/-- Within the capacity, an overrun under each reading, and no buffer: the four cases of the three
statements about the computed pair. -/
theorem checksum_cases :
    ((packetAt .marker1 0).CodecReady ∧
      ¬ packet.cfg.cap < packet.regs.lenLo.toNat + 256 * packet.regs.lenHi.toNat) ∧
    (State.CodecReady { overrunPacket with cur := .marker1, cnt := 0 } ∧
      overrunPacket.cfg.cap <
        overrunPacket.regs.lenLo.toNat + 256 * overrunPacket.regs.lenHi.toNat ∧
      overrunPacket.cfg.chkOverrun ≠ .draw) ∧
    (drawPacket.CodecReady ∧ drawPacket.cfg.hasBuf = true ∧
      drawPacket.cfg.cap < drawPacket.regs.lenLo.toNat + 256 * drawPacket.regs.lenHi.toNat ∧
      drawPacket.cfg.chkOverrun = .draw) ∧
    (State.CodecReady { bare with cur := .marker1 } ∧ bare.cfg.hasBuf = false) :=
  ⟨⟨packet_ready _ _, by decide⟩, ⟨over_ready _ _, by decide, by decide⟩,
    ⟨draw_ready, by decide, by decide, by decide⟩, bare_ready _, rfl⟩
theorem witness_UpdateWritesTheComputedPair :
    (packetAt .marker1 0).CodecReady ∧ drawPacket.CodecReady :=
  ⟨checksum_cases.1.1, checksum_cases.2.2.1.1⟩
theorem witness_CksumAnswersTheComputedPair :
    (packetAt .marker1 0).CodecReady ∧ drawPacket.CodecReady :=
  ⟨checksum_cases.1.1, checksum_cases.2.2.1.1⟩
theorem witness_ValidComparesTheComputedPair :
    (packetAt .marker1 0).CodecReady ∧ drawPacket.CodecReady :=
  ⟨checksum_cases.1.1, checksum_cases.2.2.1.1⟩
theorem witness_ValidAfterUpdate :
    State.CodecReady { overrunPacket with cur := .marker1, cnt := 0 } ∧ overrunPacket.ckFree = false :=
  ⟨over_ready _ _, by decide⟩
/-- The last covered index of an overrun packet. -/
theorem witness_CoveredChangeInvalidates :
    State.CodecReady { overrunPacket with cur := .marker1, cnt := 0 } ∧
    overrunPacket.ckFree = false ∧ overrunPacket.pay.wf = true ∧
    (0x03 : Byte) ≠ overrunPacket.regs.cls ∧ (0x03 : Byte) ≠ overrunPacket.regs.id ∧
    overrunPacket.cfg.hasBuf = true ∧
    1 < overrunPacket.regs.lenLo.toNat + 256 * overrunPacket.regs.lenHi.toNat ∧
    1 < overrunPacket.cfg.cap ∧ (0x03 : Byte) ≠ overrunPacket.pay.read 1 :=
  ⟨over_ready _ _, by decide, by decide, by decide, by decide, by decide, by decide, by decide,
    by decide⟩
/-- The first index past the declared length (V-CK-11 at its boundary). -/
theorem witness_UncoveredChangeKeepsValidity :
    (packetAt .marker1 0).CodecReady ∧ packet.ckFree = false ∧
    (min (packet.regs.lenLo.toNat + 256 * packet.regs.lenHi.toNat) packet.cfg.cap ≤
      if 2 < packet.cfg.cap then 2 else packet.cfg.cap - 1) ∧
    ∃ t, exec .valid (packetAt .marker1 0) = .next t ∧ t.response = some 1#64 :=
  ⟨packet_ready _ _, by decide, by decide, _, rfl, by decide⟩

/-- The last index that exists and the first that is clamped. -/
theorem witness_PayrdAnswersTheClampedByte :
    four.CodecReady ∧ four.cfg.hasBuf = true ∧ 3 < four.cfg.cap ∧ ¬ 4 < four.cfg.cap :=
  ⟨four_ready, by decide, by decide, by decide⟩
theorem witness_PayrdWithoutBufferAnswersFreeByte :
    State.CodecReady { bare with cur := .marker1 } ∧ bare.cfg.hasBuf = false := ⟨bare_ready _, rfl⟩
theorem witness_PaywrWritesTheClampedByte :
    four.CodecReady ∧ four.cfg.hasBuf = true ∧ four.pay.wf = true ∧
    (3 : Nat) = (if 4 < four.cfg.cap then 4 else four.cfg.cap - 1) :=
  ⟨four_ready, by decide, by decide, by decide⟩
theorem witness_PaywrWithoutBufferChangesNothing :
    State.CodecReady { bare with cur := .marker1 } ∧ bare.cfg.hasBuf = false := ⟨bare_ready _, rfl⟩
theorem witness_FieldAccessReadsAndWritesOneRegister : (packetAt .payload 1).CodecReady :=
  packet_ready _ _

theorem witness_OnlyNamedOperationsWrite : ∃ t, exec (.deser 0xB5) started = .next t := ⟨_, rfl⟩
theorem witness_StepKeepsConfigurationAndLiveness :
    (∃ t, step (started.withFetchWord 64 0xB502) = .next t) ∧
    (started.withFetchWord 64 0xB502).live = true ∧
    (started.withFetchWord 64 0xB502).fsmLive = true := ⟨⟨_, rfl⟩, rfl, rfl⟩
/-- A byte is stored at the last index that exists, at the capacity's boundary. -/
theorem witness_StepKeepsInvariant :
    State.Inv ({ overrunPacket with cur := .payload, cnt := 1 }.presentWord 0x2202#64) ∧
    ∃ t, step ({ overrunPacket with cur := .payload, cnt := 1 }.presentWord 0x2202#64) = .next t :=
  ⟨⟨by decide, by decide, by decide, by decide, by decide⟩, _, rfl⟩
theorem witness_InvariantHoldsAlongEveryRun :
    packet.Inv ∧ ∃ t, Sys2Proof.core.run 2 packet = .next t :=
  ⟨⟨by decide, by decide, by decide, by decide, by decide⟩, _, rfl⟩

end Sys2Proof.Tests
end

section
/-!
The worked encodings of R61: each word is the encoder's word of its operation, and the decoder undoes
the encoder.
-/
namespace Sys2Proof

/-- With `z` and every unused field zero, `using` answers what it is given (R52, R55). -/
theorem ReqFields.using_of_unused_zero {q : ReqFields} {f d a : Bool} (r : Except DecodeError Instr)
    (hz : q.z = 0) (hf : f = false → q.f = 0) (hd : d = false → q.d = 0) (ha : a = false → q.a = 0) :
    q.using f d a r = r := by
  have hunused : ¬ ((!f && q.f != 0) || (!d && q.d != 0) || (!a && q.a != 0)) = true := by
    simpa [or_imp] using ⟨⟨hf, hd⟩, ha⟩
  rw [ReqFields.using, if_neg (not_not_intro hz), if_neg hunused]

/-- The decoder undoes the encoder on every well-formed operation (R52 to R55). -/
theorem decode_encode {i : Instr} (h : i.wf = true) : decode (encode i) = .ok i := by
  unfold decode encode
  rw [splitWord_joinWord]
  cases i with
  | sern n | payrd n | paywr n _ =>
    simpa [fieldsOf, ReqFields.using_of_unused_zero, Instr.wf, fitsA] using h
  | fldrd r | fldwr r _ => simp [fieldsOf, ReqFields.using_of_unused_zero, ReqFields.onReg]
  | init | deser | serb | update | cksum | valid | current | advance | reset =>
    simp [fieldsOf, ReqFields.using_of_unused_zero]

/-- The encoder's word of a well-formed operation decodes to that operation. -/
theorem decode_of_encode_eq {w : Word64} {i : Instr} (hw : encode i = w) (hi : i.wf = true) :
    decode w = .ok i :=
  hw ▸ decode_encode hi

/-- Settles O4: each word R61 writes out is the encoder's word of its operation. -/
theorem workedEncodingsDecode : Obligations.WorkedEncodingsDecode := by
  unfold Obligations.WorkedEncodingsDecode
  refine ⟨?deser, ?sern, ?paywr, ?fldwr, ?fldrd, ?init⟩
  all_goals exact decode_of_encode_eq (by decide) (by decide)

end Sys2Proof
end

section
/-!
The arms of `DESER` (41_deserialize R67 to R75), said once as whole next states of `State.ingest`, and the
statements about them.
-/
namespace Sys2Proof.Machine

/-- On a composed block that serves requests `DESER d` runs the arm of its cursor (R67). -/
theorem exec_deser_of_ready {s : State} (h : s.CodecReady) (d : Byte) :
    exec (.deser d) s = .next (s.ingest d) :=
  State.onCodec_of_ready h (s.ingest d)

/-- What the accepting marker arms, the header arms and the first checksum arm share (R68 to R70, R74):
the byte goes into one register and the cursor one state on. -/
theorem State.storeAdvance_eq (s : State) (r : Reg) (d : Byte) :
    (s.setReg r d).fsmAdvance.reply (respondOk false) =
      { s with regs := s.regs.set r d, cur := s.cur.next, response := some 0#64 } := rfl

/-- The payload step's condition in the two length bytes (R72, 20_memory R31). -/
theorem State.payReady_iff_lengthBytes (s : State) : s.payReady = true ↔
    s.cfg.hasBuf = true ∧
      s.cnt.toNat < s.regs.lenLo.toNat + 256 * s.regs.lenHi.toNat ∧ s.cnt.toNat < s.cfg.cap := by
  rw [State.payReady_iff, State.lenNat, PacketRegs.len_toNat]

/-- A counter below the declared length counts up without wrapping. -/
theorem cnt_succ_toNat {c : Half} {lo hi : Byte} (h : c.toNat < lo.toNat + 256 * hi.toNat) :
    (c + 1).toNat = c.toNat + 1 := by
  bv_omega

/-! ### The next state of each arm -/

variable {s : State} (d : Byte)

/-- R68: the first sentinel is stored and passed, any other byte dropped. -/
theorem State.ingest_marker1 (hc : s.cur = .marker1) : s.ingest d =
    if d = s.cfg.m1 then
      { s with regs := { s.regs with m1 := d }, cur := .marker2, response := some 0#64 }
    else { s with response := some 0#64 } := by
  have harm : s.ingest d = s.deserM1 d := by simp only [State.ingest, hc]
  rw [harm, State.deserM1]
  split
  · rw [State.storeAdvance_eq, hc]; rfl
  · rfl

/-- R69: the second sentinel is stored and passed, any other byte restarts the search. -/
theorem State.ingest_marker2 (hc : s.cur = .marker2) : s.ingest d =
    if d = s.cfg.m2 then
      { s with regs := { s.regs with m2 := d }, cur := .cls, response := some 0#64 }
    else { s with cur := .marker1, response := some 0#64 } := by
  simp only [State.ingest, hc, State.deserM2]
  split
  · rw [State.storeAdvance_eq, hc]; rfl
  · rfl

/-- R70 for the class. -/
theorem State.ingest_cls (hc : s.cur = .cls) : s.ingest d =
    { s with regs := { s.regs with cls := d }, cur := .id, response := some 0#64 } := by
  simp only [State.ingest, hc, State.deserHdr, State.storeAdvance_eq]; rfl

/-- R70 for the id. -/
theorem State.ingest_id (hc : s.cur = .id) : s.ingest d =
    { s with regs := { s.regs with id := d }, cur := .lenLo, response := some 0#64 } := by
  simp only [State.ingest, hc, State.deserHdr, State.storeAdvance_eq]; rfl

/-- R70 for the low length byte. -/
theorem State.ingest_lenLo (hc : s.cur = .lenLo) : s.ingest d =
    { s with regs := { s.regs with lenLo := d }, cur := .lenHi, response := some 0#64 } := by
  simp only [State.ingest, hc, State.deserHdr, State.storeAdvance_eq]; rfl

/-- R71: the high length byte also clears the payload counter. -/
theorem State.ingest_lenHi (hc : s.cur = .lenHi) : s.ingest d =
    { s with regs := { s.regs with lenHi := d }, cnt := 0, cur := .payload,
             response := some 0#64 } := by
  simp only [State.ingest, hc, State.deserLenHi, State.fsmAdvance, State.setCnt_cur,
    State.setReg_cur]; rfl

/-- R72: a byte that can be stored goes to the counter's index of `PAY`. -/
theorem State.ingest_payload_of_ready (hc : s.cur = .payload) (hp : s.payReady = true) :
    s.ingest d =
      { s with pay := s.pay.write s.cnt.toNat d, cnt := s.cnt + 1, response := some 0#64 } := by
  have harm : s.ingest d = s.deserPay d := by simp only [State.ingest, hc]
  rw [harm, State.deserPay, if_pos hp]; rfl

/-- R74: the first checksum byte is stored and passed. -/
theorem State.ingest_ck1 (hc : s.cur = .ck1) : s.ingest d =
    { s with regs := { s.regs with ckA := d }, cur := .ck2, response := some 0#64 } := by
  simp only [State.ingest, hc, State.deserCk1, State.storeAdvance_eq]; rfl

/-- R73: a byte that cannot be stored is ingested as from the first checksum state. -/
theorem State.ingest_payload_of_not_ready (hc : s.cur = .payload) (hp : ¬ s.payReady = true) :
    s.ingest d = (s.setCur .ck1).ingest d := by
  simp only [State.ingest, hc, State.deserPay, if_neg hp, State.fsmAdvance, Cursor.next,
    State.setCur_cur]

/-- R75: the second checksum byte is stored, the cursor rewound and completion signalled. -/
theorem State.ingest_ck2 (hc : s.cur = .ck2) : s.ingest d =
    { s with regs := { s.regs with ckB := d }, cur := .marker1, response := some 1#64 } := by
  simp only [State.ingest, hc, State.deserCk2]; rfl

end Sys2Proof.Machine

namespace Sys2Proof
open Sys2Proof.Machine

/-- Settles O23, one arm after the other. -/
theorem deserMarkerArms : Obligations.DeserMarkerArms := by
  unfold Obligations.DeserMarkerArms
  intro s d hs
  rw [exec_deser_of_ready hs]
  exact ⟨fun hc => congrArg _ (State.ingest_marker1 d hc),
    fun hc => congrArg _ (State.ingest_marker2 d hc)⟩

/-- Settles O24, one arm after the other. -/
theorem deserHeaderArms : Obligations.DeserHeaderArms := by
  unfold Obligations.DeserHeaderArms
  intro s d hs
  rw [exec_deser_of_ready hs]
  exact ⟨fun hc => congrArg _ (State.ingest_cls d hc), fun hc => congrArg _ (State.ingest_id d hc),
    fun hc => congrArg _ (State.ingest_lenLo d hc)⟩

/-- Settles O25. -/
theorem deserLengthHighArm : Obligations.DeserLengthHighArm := by
  unfold Obligations.DeserLengthHighArm
  intro s d hs hc
  rw [exec_deser_of_ready hs, State.ingest_lenHi d hc]

/-- Settles O26: the write lands below both bounds, and the length bounds the counter away from its
wrap. -/
theorem deserStoresPayloadByte : Obligations.DeserStoresPayloadByte := by
  unfold Obligations.DeserStoresPayloadByte
  intro s d hs hc hwf hbuf hlen hcap
  have hp : s.payReady = true := s.payReady_iff_lengthBytes.mpr ⟨hbuf, hlen, hcap⟩
  have hcnt : (s.cnt + 1).toNat = s.cnt.toNat + 1 := cnt_succ_toNat hlen
  refine ⟨s.ingest d, exec_deser_of_ready hs d, ?_⟩
  rw [State.ingest_payload_of_ready d hc hp]
  exact ⟨rfl, Memory.read_write_same hwf _ _, fun j hj => Memory.read_write_of_ne _ _ hj, hcnt,
    hcnt ▸ le_min hlen hcap⟩

/-- Settles O27: the byte is ingested from the first checksum state, and the cursor it finds there is
overwritten. -/
theorem deserFallsThroughToChecksum : Obligations.DeserFallsThroughToChecksum := by
  unfold Obligations.DeserFallsThroughToChecksum
  intro s d hs hc hnot
  have hp : ¬ s.payReady = true := fun h => hnot (s.payReady_iff_lengthBytes.mp h)
  rw [exec_deser_of_ready hs, State.ingest_payload_of_not_ready d hc hp, State.ingest_ck1 d rfl]
  rfl

/-- Settles O28, one arm after the other. -/
theorem deserChecksumArms : Obligations.DeserChecksumArms := by
  unfold Obligations.DeserChecksumArms
  intro s d hs
  rw [exec_deser_of_ready hs]
  exact ⟨fun hc => congrArg _ (State.ingest_ck1 d hc), fun hc => congrArg _ (State.ingest_ck2 d hc)⟩

end Sys2Proof
end

section
/-!
The arms of `SERB` (42_serialize R80 to R86), said once as whole next states of `State.emit`, and the
statements about them.
-/
namespace Sys2Proof.Machine

/-- On a composed block that serves requests `SERB` runs the arm of its cursor (R80). -/
theorem exec_serb_of_ready {s : State} (h : s.CodecReady) : exec .serb s = .next s.emit :=
  State.onCodec_of_ready h s.emit

/-- The register that `SERB` emits with `ok = 1` at a cursor where it then only advances: the fixed arms
(R81) and the first checksum arm (R85). -/
def Cursor.plainReg : Cursor → Option Reg
  | .marker1 => some .m1
  | .marker2 => some .m2
  | .cls => some .cls
  | .id => some .id
  | .lenLo => some .lenLo
  | .ck1 => some .ckA
  | .lenHi | .payload | .ck2 => none

/-! ### The next state of each arm -/

variable {s : State}

/-- R81, R85: the cursor's register goes out as it stands and the cursor one state on. -/
theorem State.emit_of_plainReg {c : Cursor} {r : Reg} (hc : s.cur = c) (hr : c.plainReg = some r) :
    s.emit =
      { s with cur := c.next, response := some (packResponse true (s.regs.get r) 0 0) } := by
  cases c <;> cases hr <;>
    simp only [State.emit, hc, State.serFix, State.serCk1, State.fsmAdvance] <;> rfl

/-- R82: the high length byte goes out and the payload counter is cleared. -/
theorem State.emit_lenHi (hc : s.cur = .lenHi) : s.emit =
    { s with cnt := 0, cur := .payload, response := some (packResponse true s.regs.lenHi 0 0) } := by
  simp only [State.emit, hc, State.serLenHi, State.fsmAdvance, State.setCnt_cur]; rfl

/-- R83: a payload byte that exists goes out and is counted. -/
theorem State.emit_payload_of_ready (hc : s.cur = .payload) (hp : s.payReady = true) : s.emit =
    { s with cnt := s.cnt + 1,
             response := some (packResponse true (s.pay.read s.cnt.toNat) 0 0) } := by
  have harm : s.emit = s.serPay := by simp only [State.emit, hc]
  rw [harm, State.serPay, if_pos hp]; rfl

/-- R84: with no payload byte left the block emits as from the first checksum state. -/
theorem State.emit_payload_of_not_ready (hc : s.cur = .payload) (hp : ¬ s.payReady = true) :
    s.emit = (s.setCur .ck1).emit := by
  simp only [State.emit, hc, State.serPay, if_neg hp, State.fsmAdvance, Cursor.next,
    State.setCur_cur]

/-- R86: the second checksum register goes out, the cursor is rewound and no byte remains. -/
theorem State.emit_ck2 (hc : s.cur = .ck2) : s.emit =
    { s with cur := .marker1, response := some (packResponse false s.regs.ckB 0 0) } := by
  simp only [State.emit, hc, State.serCk2]; rfl

end Sys2Proof.Machine

namespace Sys2Proof
open Sys2Proof.Machine

/-- Settles O33: in each state the emitted register is the cursor's own. -/
theorem serbFixedArms : Obligations.SerbFixedArms := by
  unfold Obligations.SerbFixedArms
  intro s hs
  rw [exec_serb_of_ready hs]
  exact ⟨fun hc => congrArg _ (State.emit_of_plainReg (r := .m1) hc rfl),
    fun hc => congrArg _ (State.emit_of_plainReg (r := .m2) hc rfl),
    fun hc => congrArg _ (State.emit_of_plainReg (r := .cls) hc rfl),
    fun hc => congrArg _ (State.emit_of_plainReg (r := .id) hc rfl),
    fun hc => congrArg _ (State.emit_of_plainReg (r := .lenLo) hc rfl)⟩

/-- Settles O34. -/
theorem serbLengthHighArm : Obligations.SerbLengthHighArm := by
  unfold Obligations.SerbLengthHighArm
  intro s hs hc
  rw [exec_serb_of_ready hs, State.emit_lenHi hc]

/-- Settles O35: the statement's condition is the payload step's, and where it fails the first checksum
arm overwrites the cursor it finds. -/
theorem serbPayloadArm : Obligations.SerbPayloadArm := by
  unfold Obligations.SerbPayloadArm
  intro s hs hc
  rw [exec_serb_of_ready hs]
  split
  next hready =>
    rw [State.emit_payload_of_ready hc (s.payReady_iff_lengthBytes.mpr hready)]
  next hnot =>
    have hp : ¬ s.payReady = true := fun h => hnot (s.payReady_iff_lengthBytes.mp h)
    rw [State.emit_payload_of_not_ready hc hp, State.emit_of_plainReg rfl rfl]
    rfl

/-- Settles O36, one arm after the other. -/
theorem serbChecksumArms : Obligations.SerbChecksumArms := by
  unfold Obligations.SerbChecksumArms
  intro s hs
  rw [exec_serb_of_ready hs]
  exact ⟨fun hc => congrArg _ (State.emit_of_plainReg (r := .ckA) hc rfl),
    fun hc => congrArg _ (State.emit_ck2 hc)⟩

end Sys2Proof
end

section
/-!
What `INIT` leaves (45_init R113 to R116): its whole next state, and the packet it primes, which is a valid
empty frame whatever `PAY` and the configuration hold, because a declared length of zero covers no payload.
-/
namespace Sys2Proof.Machine

/-- A whole run of writes from the first index on reads back as the bytes written. -/
theorem Memory.map_read_writeAll {m : Memory} (hm : m.wf = true) (vs : List Byte) :
    (List.range vs.length).map (m.writeAll 0 vs).read = vs :=
  List.ext_getElem (by simp) fun j _ hj => by
    simpa using Memory.read_writeAll_of_inside hm 0 vs j hj

/-! ### Operations on a block that serves requests -/

variable {s : State}

/-- On a ready composed block, live or not, `INIT` initialises it (R113). -/
theorem exec_init_of_ready (h : s.Ready) (ht : s.target = .codec) :
    exec .init s = .next (s.initialised.reply respondNone) := by
  change s.onUnit .codec _ = _
  rw [State.onUnit, State.permit_of_ready h, if_pos ht]

/-- Where the pair is not free `CKSUM` only answers the covered bytes' pair, packed (R102). -/
theorem exec_cksum_of_not_free (h : s.CodecReady) (hf : s.ckFree = false) :
    exec .cksum s = .next (s.reply (respondHalf (packPair (ckPair s.coveredBytes)))) := by
  obtain ⟨hpair, hdrew⟩ := State.checksum_of_not_free hf
  change s.onCodec _ = _
  rw [State.onCodec_of_ready h, hpair, hdrew]

/-- Where the pair is not free `VALID` only compares the covered bytes' pair with the stored one (R103). -/
theorem exec_valid_of_not_free (h : s.CodecReady) (hf : s.ckFree = false) :
    exec .valid s = .next (s.reply
      (respondOk (decide (ckPair s.coveredBytes = (s.regs.ckA, s.regs.ckB))))) := by
  obtain ⟨hpair, hdrew⟩ := State.checksum_of_not_free hf
  change s.onCodec _ = _
  rw [State.onCodec_of_ready h, hpair, hdrew]

/-- With room for the frame `SERN` writes it and answers its length (R90). -/
theorem exec_sern_of_room (h : s.CodecReady) {n : Nat} (hn : s.lenNat + overhead ≤ n) :
    exec (.sern n) s = .next
      ((s.writeDst 0 s.bulkFrame).drewOverrun.reply (respondCount (s.lenNat + overhead))) := by
  change s.onCodec _ = _
  rw [State.onCodec_of_ready h, State.bulk, if_neg (Nat.not_lt.mpr hn)]

/-- `INIT` makes a ready composed block serve requests (R113, R120). -/
theorem State.Ready.initialised_codecReady (h : s.Ready) (ht : s.target = .codec) :
    s.initialised.CodecReady :=
  ⟨⟨h.cfg_wf, h.no_fault⟩, ht, rfl⟩

/-- A response does not stop the block from serving requests. -/
theorem State.CodecReady.reply (h : s.CodecReady) (w : Word64) : (s.reply w).CodecReady :=
  ⟨⟨h.cfg_wf, h.no_fault⟩, h.target_codec, h.is_live⟩

/-- Nor does a destination. -/
theorem State.CodecReady.withDst (h : s.CodecReady) (d : Option Destination) :
    State.CodecReady { s with dst := d } :=
  ⟨⟨h.cfg_wf, h.no_fault⟩, h.target_codec, h.is_live⟩

/-! ### The primed packet -/

/-- Its declared length is zero. -/
theorem State.lenNat_of_primed (hp : s.regs = PacketRegs.primed s.cfg) : s.lenNat = 0 := by
  rw [State.lenNat, PacketRegs.len_toNat, hp]; rfl

/-- No capacity is below a declared length of zero, so its pair is not free (R100). -/
theorem State.ckFree_of_primed (hp : s.regs = PacketRegs.primed s.cfg) : s.ckFree = false := by
  simp [State.ckFree, State.overrun, State.lenNat_of_primed hp]

/-- The checksum covers its four zero header bytes and no payload (R96). -/
theorem State.coveredBytes_of_primed (hp : s.regs = PacketRegs.primed s.cfg) :
    s.coveredBytes = [0x00, 0x00, 0x00, 0x00] := by
  have hcov : s.covered = 0 := by simp [State.covered, State.lenNat_of_primed hp]
  rw [State.coveredBytes, hcov, hp]; rfl

/-- Its computed pair is the one it stores (R116). -/
theorem State.ckPair_of_primed (hp : s.regs = PacketRegs.primed s.cfg) :
    ckPair s.coveredBytes = (0x00, 0x00) := by
  rw [State.coveredBytes_of_primed hp]; rfl

/-- Its frame is the two sentinels and six zero bytes (R45, R116). -/
theorem State.bulkFrame_of_primed (hp : s.regs = PacketRegs.primed s.cfg) :
    s.bulkFrame = [s.cfg.m1, s.cfg.m2, 0x00, 0x00, 0x00, 0x00, 0x00, 0x00] := by
  rw [State.bulkFrame, State.lenNat_of_primed hp, hp]; rfl

/-- `CKSUM` answers the zero pair and nothing else changes (R116). -/
theorem exec_cksum_of_primed (h : s.CodecReady) (hp : s.regs = PacketRegs.primed s.cfg) :
    exec .cksum s = .next (s.reply 0#64) := by
  rw [exec_cksum_of_not_free h (State.ckFree_of_primed hp), State.ckPair_of_primed hp]; rfl

/-- `VALID` answers 1 and nothing else changes (R116). -/
theorem exec_valid_of_primed (h : s.CodecReady) (hp : s.regs = PacketRegs.primed s.cfg) :
    exec .valid s = .next (s.reply 1#64) := by
  have hstored : ckPair s.coveredBytes = (s.regs.ckA, s.regs.ckB) := by
    rw [State.ckPair_of_primed hp, hp]; rfl
  rw [exec_valid_of_not_free h (State.ckFree_of_primed hp), decide_eq_true hstored]; rfl

/-- `SERN 8` answers 8 and leaves the empty frame in the destination (R116). -/
theorem exec_sern_of_primed (h : s.CodecReady) (hp : s.regs = PacketRegs.primed s.cfg)
    {d : Destination} (hd : s.dst = some d) (hwf : d.bytes.wf = true) :
    ∃ t e, exec (.sern 8) s = .next t ∧ t.response = some 0x0000000800000000#64 ∧ t.dst = some e ∧
      (List.range 8).map e.bytes.read = [s.cfg.m1, s.cfg.m2, 0, 0, 0, 0, 0, 0] := by
  have hlen : s.lenNat + overhead = 8 := by rw [State.lenNat_of_primed hp]; rfl
  refine ⟨_, { d with bytes := d.bytes.writeAll 0 s.bulkFrame }, exec_sern_of_room h hlen.le, ?_,
    by simp [hd], ?_⟩
  · rw [hlen]; rfl
  · rw [State.bulkFrame_of_primed hp]
    exact Memory.map_read_writeAll hwf [s.cfg.m1, s.cfg.m2, 0, 0, 0, 0, 0, 0]

end Sys2Proof.Machine

namespace Sys2Proof
open Sys2Proof.Machine

/-- Settles O15: `INIT` is the model's initialisation and an all-zero response. -/
theorem initPrimesTheBlock : Obligations.InitPrimesTheBlock := by
  unfold Obligations.InitPrimesTheBlock
  intro s hs ht
  rw [exec_init_of_ready hs ht]
  rfl

/-- Settles O17: `CKSUM` and `VALID` keep the packet `INIT` primed, so each of the four requests meets a
block whose packet is primed. -/
theorem initLeavesValidEmptyFrame : Obligations.InitLeavesValidEmptyFrame := by
  unfold Obligations.InitLeavesValidEmptyFrame
  intro s d hs ht hwf _
  have hinit : (s.initialised.reply respondNone).CodecReady :=
    (hs.initialised_codecReady ht).reply _
  have hcksum := hinit.reply 0#64
  have hvalid := hcksum.reply 1#64
  have hbytes : d.bytes.wf = true := by
    obtain ⟨hcanon, _⟩ := Bool.and_eq_true_iff.mp hwf
    exact hcanon
  obtain ⟨t, e, hsern, hresp, hdst, hframe⟩ :=
    exec_sern_of_primed (hvalid.withDst (some d)) rfl rfl hbytes
  have hrun := runAll_cons (exec_init_of_ready hs ht) (runAll_cons (exec_cksum_of_primed hinit rfl)
    (runAll_cons (exec_valid_of_primed hcksum rfl) (runAll_nil _)))
  exact ⟨_, t, e, hrun, rfl, rfl, hsern, hresp, hdst, hframe⟩

end Sys2Proof
end

section
/-!
Requests to a unit that is not initialised (60_exceptions R120): which operations stand behind a unit's
check of initialisation, and what that check answers before the first `INIT` or `RESET`.
-/
namespace Sys2Proof.Machine

variable {s : State} {i : Instr}

/-! ### The check of initialisation, where it fails -/

/-- Before the composed block's first `INIT` the check answers `F_NOT_INIT` for any operation (R120). -/
theorem State.onCodec_of_not_live (h : s.Ready) (ht : s.target = .codec) (hl : s.live = false)
    (k : State) : s.onCodec k = .next (s.raise .notInit) := by
  rw [State.onCodec, State.onUnit, State.permit_of_ready h, if_pos ht, State.whenLive_of_not s k hl]

/-- Before the standalone FSM's first `RESET` it does so too (R120). -/
theorem State.onFsm_of_not_live (h : s.Ready) (ht : s.target = .fsm) (hl : s.fsmLive = false)
    (k : State) : s.onUnit .fsm (s.whenFsmLive k) = .next (s.raise .notInit) := by
  rw [State.onUnit, State.permit_of_ready h, if_pos ht, State.whenFsmLive_of_not s k hl]

/-! ### The operations behind the check -/

/-- `CURRENT` at the composed block reads the block's cursor, behind the block's check (R62). -/
theorem exec_current_codec (ht : s.target = .codec) :
    exec .current s = s.onCodec (s.reply (respondCursor s.cur)) := by
  change execCurrent s = _
  rw [execCurrent, ht]

/-- `CURRENT` at the standalone FSM reads the FSM's cursor, behind the FSM's check (R62). -/
theorem exec_current_fsm (ht : s.target = .fsm) :
    exec .current s = s.onUnit .fsm (s.whenFsmLive (s.reply (respondCursor s.fsmCur))) := by
  change execCurrent s = _
  rw [execCurrent, ht]

/-- At the composed block every operation but `INIT`, and the two that only the FSM accepts, stands
behind the block's check (R120, R123). -/
theorem exec_eq_onCodec (ht : s.target = .codec) (hi : i ∉ [.init, .advance, .reset]) :
    ∃ k, exec i s = s.onCodec k := by
  cases i with
  | init | advance | reset => exact absurd (by simp) hi
  | current => exact ⟨_, exec_current_codec ht⟩
  | deser | serb | sern | update | cksum | valid | payrd | paywr | fldrd | fldwr => exact ⟨_, rfl⟩

/-- At the standalone FSM `CURRENT` and `ADVANCE` stand behind the FSM's check (R120, R123). -/
theorem exec_eq_onFsm (ht : s.target = .fsm) (hi : i ∈ [.current, .advance]) :
    ∃ k, exec i s = s.onUnit .fsm (s.whenFsmLive k) := by
  obtain rfl | rfl : i = .current ∨ i = .advance := by simpa using hi
  · exact ⟨_, exec_current_fsm ht⟩
  · exact ⟨_, rfl⟩

end Sys2Proof.Machine

namespace Sys2Proof
open Sys2Proof.Machine

/-- Settles O9: at either unit the request stands behind the unit's check of initialisation, and the check
fails whatever the operation would have done. -/
theorem requestBeforeInitRaisesNotInit : Obligations.RequestBeforeInitRaisesNotInit := by
  unfold Obligations.RequestBeforeInitRaisesNotInit
  rintro i s hs (⟨ht, hl, hi⟩ | ⟨ht, hl, hi⟩)
  · obtain ⟨k, hk⟩ := exec_eq_onCodec ht hi
    exact hk.trans (State.onCodec_of_not_live hs ht hl k)
  · obtain ⟨k, hk⟩ := exec_eq_onFsm ht hi
    exact hk.trans (State.onFsm_of_not_live hs ht hl k)

end Sys2Proof
end

section
/-!
The round trip between words and operations (30_encoding R52 to R56). A word is its five fields, so the
encoder undoes the decoder as soon as the fields of the decoded operation are the fields of the word; and
which words are rejected is read off those fields, one operation code after another.
-/
namespace Sys2Proof

/-- The index or capacity a request word carries can be spelled in a request word (R52). -/
theorem fitsA_toNat (a : Quad) : fitsA a.toNat = true :=
  decide_eq_true a.isLt

/-- If `onReg` answers an operation, it is the one on the register whose selector the word carries. -/
theorem ReqFields.onReg_ok {q : ReqFields} {k : Reg → Instr} {i : Instr} (h : q.onReg k = .ok i) :
    ∃ r, i = k r ∧ selectorOf r = q.f := by
  unfold ReqFields.onReg at h
  split at h
  next r hr => cases h; exact ⟨r, rfl, selectorOf_of_regOfSelector hr⟩
  next => cases h

/-- `onReg` rejects exactly the reserved selectors (R54, R55). -/
theorem ReqFields.onReg_error_iff (q : ReqFields) (k : Reg → Instr) :
    (∃ e, q.onReg k = .error e) ↔ 8 ≤ q.f.toNat := by
  rw [← regOfSelector_eq_none_iff, ReqFields.onReg]
  cases regOfSelector q.f <;> simp

/-- `using` rejects on a reserved bit, on a field that is not used and not zero, and where what it is
given is rejected (R55). -/
theorem ReqFields.using_error_iff (q : ReqFields) (f d a : Bool) (r : Except DecodeError Instr) :
    (∃ e, q.using f d a r = .error e) ↔
      q.z ≠ 0 ∨ (f = false ∧ q.f ≠ 0) ∨ (d = false ∧ q.d ≠ 0) ∨ (a = false ∧ q.a ≠ 0) ∨
        ∃ e, r = .error e := by
  by_cases hlegal : q.z = 0 ∧ (f = false → q.f = 0) ∧ (d = false → q.d = 0) ∧ (a = false → q.a = 0)
  · obtain ⟨hz, hf, hd, ha⟩ := hlegal
    rw [ReqFields.using_of_unused_zero r hz hf hd ha]
    grind
  · have hbad : ∃ e, q.using f d a r = .error e := by
      cases hu : q.using f d a r with
      | error e => exact ⟨e, rfl⟩
      | ok i =>
        obtain ⟨hz, hf, hd, ha, _⟩ := ReqFields.using_ok hu
        exact absurd ⟨hz, hf, hd, ha⟩ hlegal
    grind

/-- The operation code a decoder's arm stands for (R53). -/
theorem opcode_of_toNat {op : BitVec 4} {n : Nat} (h : op.toNat = n) : op = BitVec.ofNat 4 n := by
  rw [← h, BitVec.ofNat_toNat, BitVec.setWidth_eq]

/-- The operation a word decodes to is well-formed and its fields are the word's (R52 to R55). -/
theorem fieldsOf_of_decode {w : Word64} {i : Instr} (h : decode w = .ok i) :
    i.wf = true ∧ fieldsOf i = splitWord w := by
  unfold decode at h
  generalize splitWord w = q at h ⊢
  obtain ⟨op, f, d, z, a⟩ := q
  simp only at h
  split at h
  case h_15 => cases h
  all_goals
    obtain ⟨rfl, hf, hd, ha, hr⟩ := ReqFields.using_ok h
    have hop := opcode_of_toNat ‹op.toNat = _›
    subst hop
  case h_10 | h_11 =>
    obtain ⟨r, rfl, hsel⟩ := ReqFields.onReg_ok hr
    simp_all [Instr.wf, fieldsOf]
  all_goals
    cases hr
    simp_all [Instr.wf, fieldsOf, fitsA_toNat]

/-- Settles O1: the decoder undoes the encoder. -/
theorem decodeOfEncodeIsIdentity : Obligations.DecodeOfEncodeIsIdentity := by
  unfold Obligations.DecodeOfEncodeIsIdentity
  exact fun i hi => decode_encode hi

/-- Settles O2: the fields agree, and a word is the word of its fields. -/
theorem encodeOfDecodeIsIdentity : Obligations.EncodeOfDecodeIsIdentity := by
  unfold Obligations.EncodeOfDecodeIsIdentity
  intro w i h
  obtain ⟨hwf, hfields⟩ := fieldsOf_of_decode h
  exact ⟨hwf, by rw [encode, hfields, joinWord_splitWord]⟩

/-- The operation codes (R53). -/
theorem opcode_cases (op : BitVec 4) :
    op = 0x0 ∨ op = 0x1 ∨ op = 0x2 ∨ op = 0x3 ∨ op = 0x4 ∨ op = 0x5 ∨ op = 0x6 ∨ op = 0x7 ∨
      op = 0x8 ∨ op = 0x9 ∨ op = 0xA ∨ op = 0xB ∨ op = 0xC ∨ op = 0xD ∨ op = 0xE ∨ op = 0xF := by
  revert op; decide

/-- Settles O3: for each operation code the grounds of rejection are those of `using`, and for the two
register operations the reserved selectors. -/
theorem illegalWordsAreExactlyRejected : Obligations.IllegalWordsAreExactlyRejected := by
  unfold Obligations.IllegalWordsAreExactlyRejected
  intro w
  change _ ↔ ((splitWord w).op = 0x0 ∨ (splitWord w).op = 0xF ∨ (splitWord w).z ≠ 0 ∨
    ((splitWord w).f ≠ 0 ∧ (splitWord w).op ∉ [0xA, 0xB]) ∨
    ((splitWord w).d ≠ 0 ∧ (splitWord w).op ∉ [0x2, 0x9, 0xB]) ∨
    ((splitWord w).a ≠ 0 ∧ (splitWord w).op ∉ [0x4, 0x8, 0x9]) ∨
    (8 ≤ (splitWord w).f.toNat ∧ (splitWord w).op ∈ [0xA, 0xB]))
  unfold decode
  generalize splitWord w = q
  obtain ⟨op, f, d, z, a⟩ := q
  obtain rfl | rfl | rfl | rfl | rfl | rfl | rfl | rfl | rfl | rfl | rfl | rfl | rfl | rfl | rfl | rfl :=
    opcode_cases op
  all_goals
    simp [ReqFields.using_error_iff, ReqFields.onReg_error_iff]

end Sys2Proof
end

section
/-!
What an operation can do, said once for all fourteen: if it answers a next state, either a model fault was
raised or the state is the operation's effect. What each operation answers, moves and leaves alone is then
read off its effect.
-/
namespace Sys2Proof.Machine

/-- The state an operation leaves where its unit accepts it and is initialised: the arm that `exec` runs
behind its checks. -/
def State.effect (s : State) : Instr → State
  | .init => s.initialised.reply respondNone
  | .deser d => s.ingest d
  | .serb => s.emit
  | .sern n => s.bulk n
  | .update => ((s.drewChecksum.setReg .ckA s.checksumPair.1).setReg .ckB s.checksumPair.2).reply
      respondNone
  | .cksum => s.drewChecksum.reply (respondHalf (packPair s.checksumPair))
  | .valid => s.drewChecksum.reply
      (respondOk (decide (s.checksumPair = (s.regs.ckA, s.regs.ckB))))
  | .payrd i =>
      if s.cfg.hasBuf then s.reply (respondByte (s.pay.read (clampIndex s.cfg.cap i)))
      else s.drew.reply (respondByte (Config.drawDummy s.draws))
  | .paywr i d =>
      if s.cfg.hasBuf then (s.writePay (clampIndex s.cfg.cap i) d).reply respondNone
      else s.reply respondNone
  | .fldrd r => s.reply (respondByte (s.regs.get r))
  | .fldwr r d => (s.setReg r d).reply respondNone
  | .current => s.reply (respondCursor (if s.target = .codec then s.cur else s.fsmCur))
  | .advance => (s.setFsmCur s.fsmCur.next).reply respondNone
  | .reset => { s.setFsmCur .marker1 with fsmLive := true }.reply respondNone

variable {s t : State} {i : Instr}

/-- `CURRENT` answers the ordinal of the composed block's cursor there. -/
theorem State.effect_current_codec (ht : s.target = .codec) :
    s.effect .current = s.reply (respondCursor s.cur) := by
  rw [State.effect, if_pos ht]

/-- `CURRENT` answers the ordinal of the standalone FSM's cursor there. -/
theorem State.effect_current_fsm (ht : s.target = .fsm) :
    s.effect .current = s.reply (respondCursor s.fsmCur) := by
  rw [State.effect, ht, if_neg (by decide)]

/-! ### The units' checks (30_encoding R55, 60_exceptions R120, R123) -/

/-- On a standalone FSM that serves requests its check passes. -/
theorem State.onFsm_of_ready (h : s.FsmReady) (k : State) :
    s.onUnit .fsm (s.whenFsmLive k) = .next k := by
  rw [State.onUnit, State.permit_of_ready h.toReady, if_pos h.target_fsm,
    State.whenFsmLive_of_live s k h.is_live]

/-- At the other unit an operation raises `F_RESERVED`, initialised or not. -/
theorem State.onUnit_of_other {u : BlockUnit} (h : s.Ready) (ht : s.target ≠ u) (k : State) :
    s.onUnit u k = .next (s.raise .reserved) := by
  rw [State.onUnit, State.permit_of_ready h, if_neg ht]

/-- If a unit's check answers a next state, it is the operation's or a fault's. -/
theorem State.onUnit_raise_or {u : BlockUnit} {k : State} (h : s.onUnit u k = .next t) :
    s.Ready ∧ ((∃ f, t = s.raise f) ∨ t = k) := by
  obtain ⟨hr, ⟨_, rfl⟩ | ⟨_, rfl⟩⟩ := State.onUnit_next h
  · exact ⟨hr, .inr rfl⟩
  · exact ⟨hr, .inl ⟨_, rfl⟩⟩

/-- So it is with the composed block's check of initialisation. -/
theorem State.onCodec_raise_or {k : State} (h : s.onCodec k = .next t) :
    s.Ready ∧ ((∃ f, t = s.raise f) ∨ t = k) := by
  obtain ⟨hr, ⟨_, rfl⟩ | ⟨_, rfl⟩ | ⟨_, _, rfl⟩⟩ := State.onCodec_next h
  · exact ⟨hr, .inr rfl⟩
  · exact ⟨hr, .inl ⟨_, rfl⟩⟩
  · exact ⟨hr, .inl ⟨_, rfl⟩⟩

/-- And with the standalone FSM's. -/
theorem State.onFsm_raise_or {k : State} (h : s.onUnit .fsm (s.whenFsmLive k) = .next t) :
    s.Ready ∧ ((∃ f, t = s.raise f) ∨ t = k) := by
  obtain ⟨hr, hraise | rfl⟩ := State.onUnit_raise_or h
  · exact ⟨hr, .inl hraise⟩
  · cases hl : s.fsmLive
    · exact ⟨hr, .inl ⟨.notInit, s.whenFsmLive_of_not k hl⟩⟩
    · exact ⟨hr, .inr (s.whenFsmLive_of_live k hl)⟩

/-- The composed block serves every operation but the two only the FSM accepts. -/
theorem exec_of_codecReady (h : s.CodecReady) (hi : i ∉ [.advance, .reset]) :
    exec i s = .next (s.effect i) := by
  cases i with
  | init => exact exec_init_of_ready h.toReady h.target_codec
  | advance | reset => exact absurd (by simp) hi
  | current =>
    rw [exec_current_codec h.target_codec, State.onCodec_of_ready h,
      State.effect_current_codec h.target_codec]
  | deser | serb | sern | update | cksum | valid | payrd | paywr | fldrd | fldwr =>
    exact State.onCodec_of_ready h _

/-- Every operation is one that its unit's check stands before, so it answers only on a ready state, and
then raises a fault or has its effect. -/
theorem exec_next (h : exec i s = .next t) : s.Ready ∧ ((∃ f, t = s.raise f) ∨ t = s.effect i) := by
  cases i with
  | init | reset => exact State.onUnit_raise_or h
  | advance => exact State.onFsm_raise_or h
  | current =>
    cases ht : s.target
    · rw [exec_current_codec ht, ← State.effect_current_codec ht] at h
      exact State.onCodec_raise_or h
    · rw [exec_current_fsm ht, ← State.effect_current_fsm ht] at h
      exact State.onFsm_raise_or h
  | deser | serb | sern | update | cksum | valid | payrd | paywr | fldrd | fldwr =>
    exact State.onCodec_raise_or h

/-! ### What an effect leaves alone -/

/-- What a `SERN` leaves alone: everything but `DST`, the response and the count of draws (R90, R91). -/
theorem State.bulk_keeps (s : State) (n : Nat) :
    (s.bulk n).cfg = s.cfg ∧ (s.bulk n).regs = s.regs ∧ (s.bulk n).cur = s.cur ∧
      (s.bulk n).cnt = s.cnt ∧ (s.bulk n).pay = s.pay ∧ (s.bulk n).live = s.live ∧
      (s.bulk n).fault = s.fault ∧ (s.bulk n).fsmCur = s.fsmCur ∧
      (s.bulk n).fsmLive = s.fsmLive ∧ (s.bulk n).delivered = s.delivered ∧
      (s.bulk n).target = s.target ∧ (s.bulk n).inbox = s.inbox := by
  obtain ⟨_, h⟩ | ⟨_, h⟩ := s.bulk_cases n <;> simp [h]

/-- No operation's effect writes the configuration, the fault, the addressed unit or what the caller
holds. -/
theorem State.effect_keeps (s : State) (i : Instr) :
    (s.effect i).cfg = s.cfg ∧ (s.effect i).fault = s.fault ∧ (s.effect i).target = s.target ∧
      (s.effect i).inbox = s.inbox ∧ (s.effect i).delivered = s.delivered := by
  cases i with
  | deser d => simp [State.effect, State.ingest_keeps]
  | serb => simp [State.effect, State.emit_keeps]
  | sern n => simp [State.effect, State.bulk_keeps]
  | payrd | paywr => cases hb : s.cfg.hasBuf <;> simp [State.effect, hb]
  | init | update | cksum | valid | fldrd | fldwr | current | advance | reset =>
    simp [State.effect]

end Sys2Proof.Machine

namespace Sys2Proof
open Sys2Proof.Machine

/-- Settles O54: a fault changes none of these fields, and the effect of each operation keeps those it is
not named for. -/
theorem onlyNamedOperationsWrite : Obligations.OnlyNamedOperationsWrite := by
  unfold Obligations.OnlyNamedOperationsWrite
  intro i s t h
  obtain ⟨_, ⟨f, rfl⟩ | rfl⟩ := exec_next h
  · simp
  · obtain ⟨hcfg, _, htarget, hinbox, hdelivered⟩ := s.effect_keeps i
    refine ⟨hcfg, htarget, hinbox, hdelivered, ?_⟩
    cases i with
    | deser d => simp [State.effect, State.ingest_keeps]
    | serb => simp [State.effect, State.emit_keeps]
    | sern n => simp [State.effect, State.bulk_keeps]
    | payrd | paywr => cases hb : s.cfg.hasBuf <;> simp [State.effect, hb]
    | init | update | cksum | valid | fldrd | fldwr | current | advance | reset =>
      simp [State.effect]

end Sys2Proof
end

section
/-!
The response word and the block's cursor after an operation (30_encoding R57, 10_state R17): each effect
answers one packed response, and only the arms of `DESER` and `SERB` move the cursor.
-/
namespace Sys2Proof.Machine

/-! ### The arms of `DESER` and `SERB` -/

/-- The block's cursor after a request, from where it stood before: at most two states on, or back at the
initial state (R17). -/
def Cursor.Reaches (c c' : Cursor) : Prop :=
  c' = c ∨ c' = c.next ∨ c' = c.next.next ∨ c' = .marker1

/-- `DESER` answers `ok = 1` from the second checksum state and `ok = 0` from every other, and moves the
cursor within its reach (R67, R76). -/
theorem State.ingest_response_and_cur (s : State) (d : Byte) :
    (s.ingest d).response = some (respondOk (decide (s.cur = .ck2))) ∧
      s.cur.Reaches (s.ingest d).cur := by
  cases hc : s.cur with
  | marker1 =>
    rw [State.ingest_marker1 d hc]
    split
    · exact ⟨rfl, .inr (.inl rfl)⟩
    · exact ⟨rfl, .inl hc⟩
  | marker2 =>
    rw [State.ingest_marker2 d hc]
    split
    · exact ⟨rfl, .inr (.inl rfl)⟩
    · exact ⟨rfl, .inr (.inr (.inr rfl))⟩
  | cls => rw [State.ingest_cls d hc]; exact ⟨rfl, .inr (.inl rfl)⟩
  | id => rw [State.ingest_id d hc]; exact ⟨rfl, .inr (.inl rfl)⟩
  | lenLo => rw [State.ingest_lenLo d hc]; exact ⟨rfl, .inr (.inl rfl)⟩
  | lenHi => rw [State.ingest_lenHi d hc]; exact ⟨rfl, .inr (.inl rfl)⟩
  | payload =>
    by_cases hp : s.payReady = true
    · rw [State.ingest_payload_of_ready d hc hp]; exact ⟨rfl, .inl hc⟩
    · rw [State.ingest_payload_of_not_ready d hc hp, State.ingest_ck1 d rfl]
      exact ⟨rfl, .inr (.inr (.inl rfl))⟩
  | ck1 => rw [State.ingest_ck1 d hc]; exact ⟨rfl, .inr (.inl rfl)⟩
  | ck2 => rw [State.ingest_ck2 d hc]; exact ⟨rfl, .inr (.inl rfl)⟩

/-- From a state where `SERB` only emits a register, it answers that register with `ok = 1` and moves one
state on. -/
theorem State.emit_response_and_cur_of_plainReg {s : State} {c : Cursor} {r : Reg} (hc : s.cur = c)
    (hr : c.plainReg = some r) :
    s.emit.response = some (respondEmit true (s.regs.get r)) ∧ s.emit.cur = c.next := by
  rw [State.emit_of_plainReg hc hr]; exact ⟨rfl, rfl⟩

/-- `SERB` answers a byte, and moves the cursor within its reach (R80). -/
theorem State.emit_response_and_cur (s : State) :
    (∃ ok b, s.emit.response = some (respondEmit ok b)) ∧ s.cur.Reaches s.emit.cur := by
  have ofPlain {c : Cursor} {r : Reg} (hc : s.cur = c) (hr : c.plainReg = some r) :
      (∃ ok b, s.emit.response = some (respondEmit ok b)) ∧ c.Reaches s.emit.cur := by
    obtain ⟨hresp, hcur⟩ := State.emit_response_and_cur_of_plainReg hc hr
    exact ⟨⟨_, _, hresp⟩, .inr (.inl hcur)⟩
  cases hc : s.cur with
  | marker1 | marker2 | cls | id | lenLo | ck1 => exact ofPlain hc rfl
  | lenHi => rw [State.emit_lenHi hc]; exact ⟨⟨_, _, rfl⟩, .inr (.inl rfl)⟩
  | payload =>
    by_cases hp : s.payReady = true
    · rw [State.emit_payload_of_ready hc hp]; exact ⟨⟨_, _, rfl⟩, .inl hc⟩
    · obtain ⟨hresp, hcur⟩ :=
        State.emit_response_and_cur_of_plainReg (s := s.setCur .ck1) (r := .ckA) rfl rfl
      rw [State.emit_payload_of_not_ready hc hp]
      exact ⟨⟨_, _, hresp⟩, .inr (.inr (.inl hcur))⟩
  | ck2 => rw [State.emit_ck2 hc]; exact ⟨⟨_, _, rfl⟩, .inr (.inl rfl)⟩

/-! ### Every operation -/

/-- Bits 7 to 1 of a response word are zero (R57). -/
@[simp] theorem extract_reserved_pack (ok : Bool) (b : Byte) (h : Half) (c : Quad) :
    (packResponse ok b h c).extractLsb' 1 7 = 0 := by
  refine BitVec.eq_of_getLsbD_eq fun i hi => ?_
  simp only [packResponse, BitVec.getLsbD_extractLsb', BitVec.getLsbD_append]
  rw [if_neg (by omega), if_pos (by omega)]
  simp

/-- The columns of R57: a response field is zero but for the operations that have that result. -/
structure Instr.Answers (i : Instr) (ok : Bool) (b : Byte) (h : Half) (c : Quad) : Prop where
  ok_of : ok = true → (∃ d, i = .deser d) ∨ i = .serb ∨ i = .valid
  byte_of : b ≠ 0 → i = .serb ∨ (∃ k, i = .payrd k) ∨ (∃ q, i = .fldrd q) ∨ i = .current
  half_of : h ≠ 0 → i = .cksum
  count_of : c ≠ 0 → ∃ n, i = .sern n

/-- Every effect is answered by one response word, with the fields of its operation only. -/
theorem State.effect_response (s : State) (i : Instr) :
    ∃ ok b h c, (s.effect i).response = some (packResponse ok b h c) ∧
      Instr.Answers i ok b h c := by
  cases i with
  | deser d => exact ⟨_, 0, 0, 0, (s.ingest_response_and_cur d).1, by constructor <;> simp⟩
  | serb =>
    obtain ⟨⟨ok, b, hresp⟩, _⟩ := s.emit_response_and_cur
    exact ⟨ok, b, 0, 0, hresp, by constructor <;> simp⟩
  | sern n =>
    obtain ⟨_, hb⟩ | ⟨_, hb⟩ := s.bulk_cases n
    all_goals exact ⟨false, 0, 0, _, congrArg State.response hb, by constructor <;> simp⟩
  | payrd k =>
    cases hb : s.cfg.hasBuf
    all_goals
      simp only [State.effect, hb, if_true, if_false, Bool.false_eq_true]
      exact ⟨false, _, 0, 0, rfl, by constructor <;> simp⟩
  | paywr k d =>
    cases hb : s.cfg.hasBuf
    all_goals
      simp only [State.effect, hb, if_true, if_false, Bool.false_eq_true]
      exact ⟨false, 0, 0, 0, rfl, by constructor <;> simp⟩
  | cksum | valid | fldrd | current => exact ⟨_, _, _, _, rfl, by constructor <;> simp⟩
  | init | update | fldwr | advance | reset =>
    exact ⟨false, 0, 0, 0, rfl, by constructor <;> simp⟩

/-- Every effect leaves the block's cursor within its reach. -/
theorem State.effect_cur (s : State) (i : Instr) : s.cur.Reaches (s.effect i).cur := by
  cases i with
  | init => exact .inr (.inr (.inr rfl))
  | deser d => exact (s.ingest_response_and_cur d).2
  | serb => exact s.emit_response_and_cur.2
  | sern n => exact .inl (by simp [State.effect, State.bulk_keeps])
  | payrd | paywr => cases hb : s.cfg.hasBuf <;> exact .inl (by simp [State.effect, hb])
  | update | cksum | valid | fldrd | fldwr | current | advance | reset =>
    exact .inl (by simp [State.effect])

end Sys2Proof.Machine

namespace Sys2Proof
open Sys2Proof.Machine

/-- Settles O13: an effect is answered and keeps the ready state's want of a fault, and a fault answers
nothing. -/
theorem responseExactlyWithoutFault : Obligations.ResponseExactlyWithoutFault := by
  unfold Obligations.ResponseExactlyWithoutFault
  intro i s t h
  obtain ⟨hs, ⟨f, rfl⟩ | rfl⟩ := exec_next h
  · exact .inr ⟨f, rfl, rfl⟩
  · obtain ⟨_, _, _, _, hresp, _⟩ := s.effect_response i
    obtain ⟨_, hfault, _⟩ := s.effect_keeps i
    exact .inl ⟨hfault.trans hs.no_fault, _, hresp⟩

/-- Settles O14: the word is the effect's, and its fields are those it was packed from. -/
theorem responseFieldsBelongToTheirOperations :
    Obligations.ResponseFieldsBelongToTheirOperations := by
  unfold Obligations.ResponseFieldsBelongToTheirOperations
  intro i s t r h hr
  obtain ⟨_, ⟨f, rfl⟩ | rfl⟩ := exec_next h
  · cases hr
  · obtain ⟨ok, b, hw, c, hresp, hfields⟩ := s.effect_response i
    obtain rfl : packResponse ok b hw c = r := Option.some.inj (hresp.symm.trans hr)
    refine ⟨extract_reserved_pack ok b hw c, ?_, ?_, ?_, ?_⟩
    · exact fun hok => hfields.ok_of ((okOf_pack ok b hw c).symm.trans hok)
    · exact fun hb => hfields.byte_of fun h0 => hb ((byteOf_pack ok b hw c).trans h0)
    · exact fun hh => hfields.half_of fun h0 => hh ((halfOf_pack ok b hw c).trans h0)
    · exact fun hc => hfields.count_of fun h0 => hc ((countOf_pack ok b hw c).trans h0)

/-- Settles O22: a fault leaves the cursor, and an effect keeps it within its reach. -/
theorem cursorMovesAtMostTwo : Obligations.CursorMovesAtMostTwo := by
  unfold Obligations.CursorMovesAtMostTwo
  intro i s t h
  obtain ⟨_, ⟨f, rfl⟩ | rfl⟩ := exec_next h
  · exact .inl rfl
  · exact s.effect_cur i

/-- Settles O29: the response of the arm at the block's cursor. -/
theorem deserCompletesExactlyAtSecondChecksum :
    Obligations.DeserCompletesExactlyAtSecondChecksum := by
  unfold Obligations.DeserCompletesExactlyAtSecondChecksum
  intro s t d hs h
  obtain rfl : s.ingest d = t := by simpa [exec_deser_of_ready hs] using h
  obtain ⟨hresp, _⟩ := s.ingest_response_and_cur d
  rw [hresp]
  by_cases hc : s.cur = .ck2 <;> simp only [hc, decide_true, decide_false, if_true, if_false] <;> rfl

end Sys2Proof
end

section
/-!
The invariant between requests (10_state R27 to R29, 20_memory R28): an operation writes `PAY` only at
indices that exist, a `SERN n` writes its destination only below `n`, and the step hands it back; so every
step, and with it every run, keeps the byte spaces canonical and within their bounds.
-/
namespace Sys2Proof.Machine

variable {s t : State} {i : Instr}

/-- With a buffer there are `CAP` payload bytes (R28). -/
theorem Config.payBytes_of_hasBuf {c : Config} (h : c.hasBuf = true) : c.payBytes = c.cap := by
  rw [Config.payBytes, if_pos h]

/-! ### What an operation writes to `PAY` and to its destination -/

/-- An effect leaves `PAY` alone or writes one byte that exists: at the counter while the payload step is
ready, or at a clamped index (R29, R72, R109). -/
theorem State.effect_pay (hs : s.Ready) (i : Instr) :
    (s.effect i).pay = s.pay ∨
      ∃ a v, a < s.cfg.payBytes ∧ (s.effect i).pay = s.pay.write a v := by
  cases i with
  | deser d =>
    obtain hkeep | ⟨hready, hwrite⟩ := s.ingest_pay d
    · exact .inl hkeep
    · obtain ⟨hbuf, _, hcap⟩ := s.payReady_iff.mp hready
      exact .inr ⟨_, d, (Config.payBytes_of_hasBuf hbuf).symm ▸ hcap, hwrite⟩
  | paywr k d =>
    cases hb : s.cfg.hasBuf
    · exact .inl (by simp [State.effect, hb])
    · refine .inr ⟨clampIndex s.cfg.cap k, d, ?_, by simp [State.effect, hb]⟩
      rw [Config.payBytes_of_hasBuf hb]
      exact clampIndex_lt (Config.one_le_cap hs.cfg_wf hb)
  | payrd k => cases hb : s.cfg.hasBuf <;> exact .inl (by simp [State.effect, hb])
  | serb => exact .inl (by simp [State.effect, State.emit_keeps])
  | sern n => exact .inl (by simp [State.effect, State.bulk_keeps])
  | init | update | cksum | valid | fldrd | fldwr | current | advance | reset =>
    exact .inl (by simp [State.effect])

/-- An effect leaves `DST` alone, or is that of a `SERN n` with room, which writes the frame from the first
index on and answers its length (R90, R91). -/
theorem State.effect_dst (s : State) (i : Instr) :
    (s.effect i).dst = s.dst ∨
      ∃ n, i = .sern n ∧ s.lenNat + overhead ≤ n ∧
        (s.effect i).response = some (respondCount (s.lenNat + overhead)) ∧
        (s.effect i).dst =
          s.dst.map fun d => { d with bytes := d.bytes.writeAll 0 s.bulkFrame } := by
  cases i with
  | sern n =>
    obtain ⟨_, hb⟩ | ⟨hroom, hb⟩ := s.bulk_cases n
    · exact .inl (by simp [State.effect, hb])
    · exact .inr ⟨n, rfl, hroom, by simp [State.effect, hb], by simp [State.effect, hb]⟩
  | deser d => exact .inl (by simp [State.effect, State.ingest_keeps])
  | serb => exact .inl (by simp [State.effect, State.emit_keeps])
  | payrd | paywr => cases hb : s.cfg.hasBuf <;> exact .inl (by simp [State.effect, hb])
  | init | update | cksum | valid | fldrd | fldwr | current | advance | reset =>
    exact .inl (by simp [State.effect])

/-- An operation keeps `PAY` canonical and within the bytes that exist. -/
theorem exec_keeps_pay (h : exec i s = .next t) (hwf : s.pay.wf = true)
    (hbelow : s.pay.below s.cfg.payBytes = true) :
    t.pay.wf = true ∧ t.pay.below s.cfg.payBytes = true := by
  obtain ⟨hs, ⟨f, rfl⟩ | rfl⟩ := exec_next h
  · exact ⟨hwf, hbelow⟩
  · obtain hkeep | ⟨a, v, ha, hwrite⟩ := State.effect_pay hs i
    · rw [hkeep]; exact ⟨hwf, hbelow⟩
    · rw [hwrite]; exact ⟨Memory.write_wf hwf a v, Memory.write_below hbelow ha v⟩

/-- An operation leaves the destination supplied for it well-formed. -/
theorem exec_keeps_destination {m : Memory} (h : exec i s = .next t)
    (hd : s.dst = destinationOf i m) (hm : m.wf = true) : t.dst.all Destination.wf = true := by
  have hsupplied : s.dst.all Destination.wf = true := by
    rw [hd, Option.all_eq_true]
    intro d hsome
    obtain ⟨n, rfl, rfl⟩ := destinationOf_some hsome
    exact Destination.supply_wf hm n
  obtain ⟨_, ⟨f, rfl⟩ | rfl⟩ := exec_next h
  · exact hsupplied
  · obtain hkeep | ⟨n, rfl, hroom, _, hwrite⟩ := s.effect_dst i
    · rwa [hkeep]
    · rw [hwrite, hd]
      exact Destination.writeFrame_wf (Destination.supply_wf hm n) s hroom

/-! ### Steps and runs -/

/-- An operation keeps the configuration and makes no live unit not live. -/
theorem exec_keeps_cfg_and_live (h : exec i s = .next t) :
    t.cfg = s.cfg ∧ (s.live = true → t.live = true) ∧ (s.fsmLive = true → t.fsmLive = true) := by
  obtain ⟨hcfg, _, _, _, _, _, _, _, _, hlive, _, hfsmLive⟩ := onlyNamedOperationsWrite i s t h
  obtain ⟨_, ⟨f, rfl⟩ | rfl⟩ := exec_next h
  · exact ⟨rfl, id, id⟩
  · refine ⟨hcfg, fun hl => ?_, fun hl => ?_⟩
    · by_cases hkeep : (s.effect i).live = s.live
      · exact hkeep.trans hl
      · rw [hlive hkeep]; rfl
    · by_cases hkeep : (s.effect i).fsmLive = s.fsmLive
      · exact hkeep.trans hl
      · rw [hfsmLive hkeep]; rfl

/-- A step keeps the configuration and makes no live unit not live. -/
theorem step_keeps_cfg_and_live (h : step s = .next t) :
    t.cfg = s.cfg ∧ (s.live = true → t.live = true) ∧ (s.fsmLive = true → t.fsmLive = true) := by
  obtain ⟨_, ⟨_, rfl⟩ | ⟨a, v, rest, _, hw⟩ | ⟨_, _, _, _, _, _, _, rfl⟩ |
    ⟨u, w, m, rest, i, _, _, t', he, rfl⟩⟩ := step_next h
  · exact ⟨rfl, id, id⟩
  · obtain ⟨_, rfl⟩ := State.callerWrite_next hw
    exact ⟨rfl, id, id⟩
  · exact ⟨rfl, id, id⟩
  · simpa using exec_keeps_cfg_and_live he

/-- A step keeps the invariant, whatever the caller does next. -/
theorem State.Inv.step (hinv : s.Inv) (h : step s = .next t) : t.Inv := by
  obtain ⟨hwf, hbelow, hclosed, hdelivered, hinbox⟩ := hinv
  obtain ⟨_, ⟨_, rfl⟩ | ⟨a, v, rest, hs, hw⟩ | ⟨u, w, m, rest, e, hs, _, rfl⟩ |
    ⟨u, w, m, rest, i, hs, _, t', he, rfl⟩⟩ := step_next h
  case inl => exact ⟨hwf, hbelow, hclosed, hdelivered, hinbox⟩
  all_goals
    rw [hs, List.all_cons, Bool.and_eq_true] at hinbox
    obtain ⟨hm, hrest⟩ := hinbox
  case inr.inl =>
    obtain ⟨ha, rfl⟩ := State.callerWrite_next hw
    exact ⟨Memory.write_wf hwf a v, Memory.write_below hbelow ha v, hclosed, hdelivered, hrest⟩
  case inr.inr.inl => exact ⟨hwf, hbelow, rfl, rfl, hrest⟩
  case inr.inr.inr =>
    obtain ⟨hcfg, _, hinbox', _⟩ := onlyNamedOperationsWrite i _ t' he
    obtain ⟨hwf', hbelow'⟩ := exec_keeps_pay he hwf hbelow
    rw [← hcfg] at hbelow'
    exact ⟨hwf', hbelow', rfl, exec_keeps_destination he rfl hm, by rwa [State.handBack_inbox, hinbox']⟩

/-- If a run answers a next state, so do its first step and its rest. -/
theorem run_succ_next {M : Host.Core} {s t : M.State} {k : Nat} (h : M.run (k + 1) s = .next t) :
    ∃ s', M.step s = .next s' ∧ M.run k s' = .next t := by
  unfold Host.Core.run at h
  split at h
  next s' hstep => exact ⟨s', hstep, h⟩
  next => cases h
  next => cases h

end Sys2Proof.Machine

namespace Sys2Proof
open Sys2Proof.Machine

/-- Settles O56. -/
theorem stepKeepsInvariant : Obligations.StepKeepsInvariant := by
  unfold Obligations.StepKeepsInvariant
  exact fun s t hinv h => hinv.step h

/-- Settles O58, by induction on the number of steps. -/
theorem invariantHoldsAlongEveryRun : Obligations.InvariantHoldsAlongEveryRun := by
  unfold Obligations.InvariantHoldsAlongEveryRun
  intro k
  induction k with
  | zero => intro s t hinv h; cases h; exact ⟨hinv, rfl⟩
  | succ k ih =>
    intro s t hinv h
    obtain ⟨s', hstep, hrun⟩ := run_succ_next h
    obtain ⟨hcfg, _⟩ := step_keeps_cfg_and_live hstep
    obtain ⟨hinv', hcfg'⟩ := ih s' t (hinv.step hstep) hrun
    exact ⟨hinv', hcfg'.trans hcfg⟩

/-- Settles O57: every byte space of the reset state is empty. -/
theorem invariantHoldsAtReset : Obligations.InvariantHoldsAtReset := by
  unfold Obligations.InvariantHoldsAtReset
  exact ⟨rfl, rfl, rfl, rfl, rfl⟩

/-- Settles O55. -/
theorem stepKeepsConfigurationAndLiveness : Obligations.StepKeepsConfigurationAndLiveness := by
  unfold Obligations.StepKeepsConfigurationAndLiveness
  exact fun s t h => step_keeps_cfg_and_live h

end Sys2Proof
end

section
/-!
The step (30_encoding R58, 60_exceptions R119 to R123): what it does for each kind of pending action, what
stops it, and what becomes of a destination.
-/
namespace Sys2Proof.Machine

variable {s t : State} {i : Instr}

/-! ### What stands before every operation and every step -/

/-- Every operation stands behind the checks of the configuration and of a recorded fault. -/
theorem exec_eq_permit (i : Instr) (s : State) : ∃ k, exec i s = s.permit (.next k) := by
  cases i with
  | current =>
    cases ht : s.target
    · exact ⟨_, exec_current_codec ht⟩
    · exact ⟨_, exec_current_fsm ht⟩
  | init | deser | serb | sern | update | cksum | valid | payrd | paywr | fldrd | fldwr | advance
  | reset => exact ⟨_, rfl⟩

/-- At the standalone FSM every operation but its three stands behind the other unit's check. -/
theorem exec_eq_onUnit_codec (hi : i ∉ [.current, .advance, .reset]) :
    ∃ k, exec i s = s.onUnit .codec k := by
  cases i with
  | current | advance | reset => exact absurd (by simp) hi
  | init | deser | serb | sern | update | cksum | valid | payrd | paywr | fldrd | fldwr =>
    exact ⟨_, rfl⟩

/-- `ADVANCE` and `RESET` stand behind the check that the unit is the standalone FSM. -/
theorem exec_eq_onUnit_fsm (hi : i ∈ [.advance, .reset]) : ∃ k, exec i s = s.onUnit .fsm k := by
  obtain rfl | rfl : i = .advance ∨ i = .reset := by simpa using hi
  all_goals exact ⟨_, rfl⟩

/-- On the standalone FSM `RESET` rewinds the cursor and makes it live, live before or not (R64). -/
theorem exec_reset_of_ready (h : s.Ready) (ht : s.target = .fsm) :
    exec .reset s = .next (s.effect .reset) := by
  change s.onUnit .fsm _ = _
  rw [State.onUnit, State.permit_of_ready h, if_pos ht]; rfl

/-- A recorded fault is final under a configuration that is not refused. -/
theorem State.permit_of_fault {r : FaultReason} (hc : s.cfg.wf = true) (hf : s.fault = some r)
    (k : Host.Outcome State Fault Refusal) : s.permit k = .fault (.stopped r) := by
  rw [State.permit, if_pos hc, hf]

/-- A refused configuration is refused whatever the state. -/
theorem State.permit_of_refused (hc : ¬ s.cfg.wf = true) (k : Host.Outcome State Fault Refusal) :
    s.permit k = .refused .configuration := by
  rw [State.permit, if_neg hc]

/-- Under a configuration that is not refused only the continuation can refuse. -/
theorem State.permit_ne_refused (hc : s.cfg.wf = true) {k : Host.Outcome State Fault Refusal}
    (hk : k ≠ .refused .configuration) : s.permit k ≠ .refused .configuration := by
  rw [State.permit, if_pos hc]
  split
  · exact hk
  · exact nofun

/-- The configurations that are refused (R122). -/
theorem Config.not_wf_iff (c : Config) :
    ¬ c.wf = true ↔ (c.hasBuf = true ∧ c.cap = 0) ∨ c.cap > 2 ^ 32 - 1 := by
  cases hb : c.hasBuf <;> simp [Config.wf, hb, imp_iff_not_or]

/-- An operation refuses no configuration but the refused ones. -/
theorem exec_ne_refused (hc : s.cfg.wf = true) (i : Instr) :
    exec i s ≠ .refused .configuration := by
  obtain ⟨k, hk⟩ := exec_eq_permit i s
  rw [hk]
  exact State.permit_ne_refused hc nofun

/-- The end of a request refuses nothing that the operation did not refuse. -/
theorem endRequest_ne_refused {o : Host.Outcome State Fault Refusal} {r : Refusal}
    (h : o ≠ .refused r) : endRequest o ≠ .refused r := by
  cases o with
  | next t => exact nofun
  | fault f => exact nofun
  | refused r' => exact h

/-- A caller's direct write refuses nothing. -/
theorem State.callerWrite_ne_refused (s : State) (a : Nat) (v : Byte) (rest : List CallerAction)
    (r : Refusal) : s.callerWrite a v rest ≠ .refused r := by
  unfold State.callerWrite
  split <;> exact nofun

/-! ### The step for each pending action -/

/-- With no action pending a step changes nothing. -/
theorem step_of_idle (hs : s.Ready) (hi : s.inbox = []) : step s = .next s := by
  rw [step, State.permit_of_ready hs, fetch, hi]

/-- A caller's direct write is the whole step. -/
theorem step_of_writePay (hs : s.Ready) {a : Nat} {v : Byte} {rest : List CallerAction}
    (hi : s.inbox = .writePay a v :: rest) : step s = s.callerWrite a v rest := by
  rw [step, State.permit_of_ready hs, fetch, hi]

section Request
variable {u : BlockUnit} {w : Word64} {m : Memory} {rest : List CallerAction}

/-- A request whose word decodes is served by the operation. -/
theorem step_of_legal (hs : s.Ready) (hi : s.inbox = .request u w m :: rest) (hw : decode w = .ok i) :
    step s = endRequest (exec i (s.serve u (destinationOf i m) rest)) := by
  simp only [step, State.permit_of_ready hs, fetch, hi, hw]

/-- A request whose word does not decode raises `F_RESERVED`. -/
theorem step_of_illegal (hs : s.Ready) (hi : s.inbox = .request u w m :: rest) {e : DecodeError}
    (hw : decode w = .error e) : step s = .next ((s.serve u none rest).raise .reserved) := by
  simp only [step, State.permit_of_ready hs, fetch, hi, hw]

end Request

/-- A step refuses no configuration but the refused ones: an operation meets the same configuration. -/
theorem step_ne_refused (hc : s.cfg.wf = true) : step s ≠ .refused .configuration := by
  cases hf : s.fault with
  | some r => rw [step, State.permit_of_fault hc hf]; exact nofun
  | none =>
    have hs : s.Ready := ⟨hc, hf⟩
    cases hi : s.inbox with
    | nil => rw [step_of_idle hs hi]; exact nofun
    | cons action rest =>
      cases action with
      | writePay a v =>
        rw [step_of_writePay hs hi]
        exact s.callerWrite_ne_refused a v rest _
      | request u w m =>
        cases hw : decode w with
        | error e => rw [step_of_illegal hs hi hw]; exact nofun
        | ok i =>
          rw [step_of_legal hs hi hw]
          exact endRequest_ne_refused (exec_ne_refused (s := s.serve _ _ _) hc i)

/-! ### The destination of a request -/

/-- The count a response word carries, where there is one (R57). -/
def State.answeredCount (s : State) : Nat :=
  match s.response with
  | some r => (countOf r).toNat
  | none => 0

/-- The count of a `SERN` is the number it packs, which 32 bits hold (R49). -/
theorem State.answeredCount_of_respondCount {c : Nat} (h : s.response = some (respondCount c))
    (hc : c < 2 ^ 32) : s.answeredCount = c := by
  rw [State.answeredCount, h]
  simp only [respondCount, countOf_pack, BitVec.toNat_ofNat]
  omega

/-- A declared length is a 16-bit number (R14). -/
theorem State.lenNat_lt (s : State) : s.lenNat < 65536 := s.regs.len.isLt

/-- The destination is that of a `SERN n`, of `n` bytes and no others, and its bytes at or past `count` are
the caller's bytes `m`. -/
def Destination.Serves (d : Destination) (i : Instr) (m : Memory) (count : Nat) : Prop :=
  ∃ n, i = .sern n ∧ d.size = n ∧ d.bytes.below n = true ∧
    ∀ j, j < n → count ≤ j → d.bytes.read j = m.read j

/-- A destination as it was supplied holds nothing but the caller's bytes. -/
theorem Destination.serves_of_supplied {m : Memory} {d : Destination} (h : destinationOf i m = some d)
    (count : Nat) : d.Serves i m count := by
  obtain ⟨n, rfl, rfl⟩ := destinationOf_some h
  exact ⟨n, rfl, rfl, Memory.keepBelow_below m n, fun j hj _ => Memory.read_keepBelow m hj⟩

/-- A destination that an operation leaves, where one of the caller's bytes was supplied, serves it. -/
theorem exec_destination {m : Memory} {d : Destination} (h : exec i s = .next t)
    (hsupplied : s.dst = destinationOf i m) (hd : t.dst = some d) :
    d.Serves i m t.answeredCount := by
  have ofKept (hkeep : t.dst = s.dst) : d.Serves i m t.answeredCount :=
    Destination.serves_of_supplied (hsupplied.symm.trans (hkeep.symm.trans hd)) _
  obtain ⟨_, ⟨f, rfl⟩ | rfl⟩ := exec_next h
  · exact ofKept rfl
  · obtain hkeep | ⟨n, rfl, hroom, hresp, hwrite⟩ := s.effect_dst i
    · exact ofKept hkeep
    · have hlen := s.lenNat_lt
      obtain rfl : { Destination.supply n m with
          bytes := (m.keepBelow n).writeAll 0 s.bulkFrame } = d :=
        Option.some.inj ((hsupplied ▸ hwrite).symm.trans hd)
      rw [State.answeredCount_of_respondCount hresp (by unfold overhead; omega)]
      refine ⟨n, rfl, rfl, Memory.writeAll_below (Memory.keepBelow_below m n) 0 _ (by simpa), ?_⟩
      intro j hj hcount
      exact (Memory.read_writeAll_of_outside _ 0 _ (.inr (by simpa))).trans
        (Memory.read_keepBelow m hj)

end Sys2Proof.Machine

namespace Sys2Proof
open Sys2Proof.Machine

/-- Settles O12: the two grounds are what the configuration's check tests, and nothing behind it refuses a
configuration. -/
theorem zeroOrOversizeCapacityRefused : Obligations.ZeroOrOversizeCapacityRefused := by
  unfold Obligations.ZeroOrOversizeCapacityRefused
  intro s
  rw [← Config.not_wf_iff, not_not]
  refine ⟨fun hc => ⟨State.permit_of_refused hc _, fun i => ?_⟩,
    fun hc => ⟨step_ne_refused hc, exec_ne_refused hc⟩⟩
  obtain ⟨k, hk⟩ := exec_eq_permit i s
  rw [hk, State.permit_of_refused hc]

/-- Settles O59: only an operation that ran hands a destination back. -/
theorem destinationLastsOneRequest : Obligations.DestinationLastsOneRequest := by
  unfold Obligations.DestinationLastsOneRequest
  intro s t u w m rest hi h
  obtain ⟨hs, _⟩ := step_next h
  cases hw : decode w with
  | error e =>
    obtain rfl : (s.serve u none rest).raise .reserved = t := by
      simpa [step_of_illegal hs hi hw] using h
    exact ⟨rfl, nofun⟩
  | ok i =>
    rw [step_of_legal hs hi hw] at h
    obtain ⟨t', he, rfl⟩ := endRequest_next h
    refine ⟨rfl, fun d hd => ?_⟩
    obtain ⟨n, rfl, hsize, hbelow, hread⟩ := exec_destination he rfl hd
    exact ⟨n, rfl, hsize, hbelow, hread⟩

/-- Settles O5: `destinationOf` is the destination the statement writes out, and `endRequest` the end. -/
theorem stepRunsTheDecodedOperation : Obligations.StepRunsTheDecodedOperation := by
  unfold Obligations.StepRunsTheDecodedOperation
  intro s u w m rest i hs hi hw
  rw [step_of_legal hs hi hw]
  cases i <;> rfl

/-- Settles O6. -/
theorem illegalWordRaisesReserved : Obligations.IllegalWordRaisesReserved := by
  unfold Obligations.IllegalWordRaisesReserved
  intro s u w m rest e hs hi hw
  exact step_of_illegal hs hi hw

/-- Settles O7. -/
theorem noRequestHoldsEveryState : Obligations.NoRequestHoldsEveryState := by
  unfold Obligations.NoRequestHoldsEveryState
  exact fun s hs hi => step_of_idle hs hi

/-- Settles O8: the payload bytes that exist are those below `CAP` of a buffer. -/
theorem callerWritesPayloadDirectly : Obligations.CallerWritesPayloadDirectly := by
  unfold Obligations.CallerWritesPayloadDirectly
  intro s i v rest hs hwf hi
  have hexists : i < s.cfg.payBytes ↔ s.cfg.hasBuf = true ∧ i < s.cfg.cap := by
    cases hb : s.cfg.hasBuf <;> simp [Config.payBytes, hb]
  rw [step_of_writePay hs hi, State.callerWrite]
  split
  next hi' =>
    rw [if_pos (hexists.mpr hi')]
    exact ⟨_, rfl, rfl, Memory.read_write_same hwf i v, fun j hj => Memory.read_write_of_ne _ v hj⟩
  next hi' => rw [if_neg fun h => hi' (hexists.mp h)]

/-- Settles O10: at either unit the operation stands behind the other unit's check. -/
theorem wrongUnitRaisesReserved : Obligations.WrongUnitRaisesReserved := by
  unfold Obligations.WrongUnitRaisesReserved
  rintro i s hs (⟨ht, hi⟩ | ⟨ht, hi⟩)
  · obtain ⟨k, hk⟩ := exec_eq_onUnit_fsm (s := s) hi
    exact hk.trans (State.onUnit_of_other hs (by simp [ht]) k)
  · obtain ⟨k, hk⟩ := exec_eq_onUnit_codec (s := s) hi
    exact hk.trans (State.onUnit_of_other hs (by simp [ht]) k)

/-- Settles O11: steps and operations stand behind one check. -/
theorem recordedFaultIsFinal : Obligations.RecordedFaultIsFinal := by
  unfold Obligations.RecordedFaultIsFinal
  intro s r hc hf
  refine ⟨State.permit_of_fault hc hf _, fun i => ?_⟩
  obtain ⟨k, hk⟩ := exec_eq_permit i s
  rw [hk, State.permit_of_fault hc hf]

/-- Settles O16: before `INIT` and `RESET` the units' checks fail, and those two pass them. -/
theorem powerOnNeedsInit : Obligations.PowerOnNeedsInit := by
  unfold Obligations.PowerOnNeedsInit
  rintro c regs cur cnt fsmCur pay s f hc rfl rfl
  have hs : (State.powerOn c regs cur cnt fsmCur pay).Ready := ⟨hc, rfl⟩
  have hf : State.Ready { State.powerOn c regs cur cnt fsmCur pay with target := .fsm } := ⟨hc, rfl⟩
  refine ⟨fun i hi => ⟨_, requestBeforeInitRaisesNotInit i _ hs (.inl ⟨rfl, rfl, hi⟩), rfl, rfl⟩,
    ⟨_, initPrimesTheBlock _ hs rfl, rfl, rfl, rfl, rfl, rfl, rfl⟩,
    fun i hi => ⟨_, requestBeforeInitRaisesNotInit i _ hf (.inr ⟨rfl, rfl, hi⟩), rfl, rfl⟩,
    ⟨_, exec_reset_of_ready hf rfl, rfl, rfl, rfl⟩⟩

/-- Settles O60: the reset state is a ready state of the composed block before its first `INIT`. -/
theorem resetIsBeforeTheFirstInit : Obligations.ResetIsBeforeTheFirstInit := by
  unfold Obligations.ResetIsBeforeTheFirstInit
  have hs : State.reset.Ready := ⟨by decide, rfl⟩
  exact ⟨rfl, rfl, rfl,
    fun i hi => requestBeforeInitRaisesNotInit i _ hs (.inl ⟨rfl, rfl, hi⟩),
    _, initPrimesTheBlock _ hs rfl, rfl, rfl⟩

end Sys2Proof
end

section
/-!
The standalone FSM (40_fsm R62 to R65) and the access to registers and payload bytes (44_access R106 to
R112).
-/
namespace Sys2Proof.Machine

variable {s : State}

/-! ### The standalone FSM -/

/-- On a standalone FSM that serves requests `ADVANCE` moves the cursor on (R63). -/
theorem exec_advance_of_ready (h : s.FsmReady) :
    exec .advance s = .next { s with fsmCur := s.fsmCur.next, response := some 0#64 } :=
  State.onFsm_of_ready h _

/-- `ADVANCE` leaves the FSM serving requests. -/
theorem State.FsmReady.advanced (h : s.FsmReady) (c : Cursor) (r : Option Word64) :
    State.FsmReady { s with fsmCur := c, response := r } :=
  ⟨⟨h.cfg_wf, h.no_fault⟩, h.target_fsm, h.is_live⟩

/-- A row of `ADVANCE`s moves the cursor on as often. -/
theorem runAll_advances (k : Nat) (h : s.FsmReady) :
    runAll (List.replicate (k + 1) .advance) s =
      .next (List.replicate (k + 1) (some 0#64),
        { s with fsmCur := Cursor.next^[k + 1] s.fsmCur, response := some 0#64 }) := by
  induction k generalizing s with
  | zero => exact runAll_cons (exec_advance_of_ready h) (runAll_nil _)
  | succ k ih => exact runAll_cons (exec_advance_of_ready h) (ih (h.advanced _ _))

/-- The next ordinal, and after the last the first (R63). -/
theorem Cursor.next_ordinal (c : Cursor) :
    c.next.ordinal = if c.ordinal = 8 then 0 else c.ordinal + 1 := by
  cases c <;> rfl

/-- The cursor has nine states, in a cycle. -/
theorem Cursor.next_iterate_nine (c : Cursor) : Cursor.next^[9] c = c := by
  cases c <;> rfl

/-! ### Payload bytes and registers -/

/-- `PAYRD` with a buffer answers the byte at the clamped index (R106, R107). -/
theorem exec_payrd_of_hasBuf (h : s.CodecReady) (hb : s.cfg.hasBuf = true) (i : Nat) :
    exec (.payrd i) s =
      .next (s.reply (respondByte (s.pay.read (clampIndex s.cfg.cap i)))) := by
  rw [exec_of_codecReady h (by simp), State.effect, if_pos hb]

/-- `PAYRD` without a buffer answers a free byte and counts its use (R108). -/
theorem exec_payrd_of_noBuf (h : s.CodecReady) (hb : s.cfg.hasBuf = false) (i : Nat) :
    exec (.payrd i) s = .next (s.drew.reply (respondByte (Config.drawDummy s.draws))) := by
  rw [exec_of_codecReady h (by simp), State.effect, if_neg (by simp [hb])]

/-- `PAYWR` with a buffer writes the byte at the clamped index (R107, R109). -/
theorem exec_paywr_of_hasBuf (h : s.CodecReady) (hb : s.cfg.hasBuf = true) (i : Nat) (d : Byte) :
    exec (.paywr i d) s =
      .next ((s.writePay (clampIndex s.cfg.cap i) d).reply respondNone) := by
  rw [exec_of_codecReady h (by simp), State.effect, if_pos hb]

/-- `PAYWR` without a buffer only answers (R110). -/
theorem exec_paywr_of_noBuf (h : s.CodecReady) (hb : s.cfg.hasBuf = false) (i : Nat) (d : Byte) :
    exec (.paywr i d) s = .next (s.reply respondNone) := by
  rw [exec_of_codecReady h (by simp), State.effect, if_neg (by simp [hb])]

/-- `FLDWR` writes the register (R112). -/
theorem exec_fldwr_of_ready (h : s.CodecReady) (r : Reg) (d : Byte) :
    exec (.fldwr r d) s = .next ((s.setReg r d).reply respondNone) :=
  exec_of_codecReady h (by simp)

/-- A payload write leaves the block serving requests. -/
theorem State.CodecReady.writePay (h : s.CodecReady) (i : Nat) (d : Byte) :
    (s.writePay i d).CodecReady :=
  ⟨⟨h.cfg_wf, h.no_fault⟩, h.target_codec, h.is_live⟩

/-- So does a register write. -/
theorem State.CodecReady.setReg (h : s.CodecReady) (r : Reg) (d : Byte) :
    (s.setReg r d).CodecReady :=
  ⟨⟨h.cfg_wf, h.no_fault⟩, h.target_codec, h.is_live⟩

end Sys2Proof.Machine

namespace Sys2Proof
open Sys2Proof.Machine

/-- Settles O21: nine moves lead around the cycle. -/
theorem nineAdvancesReturn : Obligations.NineAdvancesReturn := by
  unfold Obligations.NineAdvancesReturn
  intro s hs
  rw [runAll_advances 8 hs, Cursor.next_iterate_nine]

/-- Settles O18: each unit answers its own cursor's ordinal. -/
theorem currentAnswersTheOrdinal : Obligations.CurrentAnswersTheOrdinal := by
  unfold Obligations.CurrentAnswersTheOrdinal
  refine fun s => ⟨fun hs => ?_, fun hs => ?_⟩
  · rw [exec_current_codec hs.target_codec, State.onCodec_of_ready hs]; rfl
  · rw [exec_current_fsm hs.target_fsm, State.onFsm_of_ready hs]; rfl

/-- Settles O19. -/
theorem advanceMovesTheStandaloneCursor : Obligations.AdvanceMovesTheStandaloneCursor := by
  unfold Obligations.AdvanceMovesTheStandaloneCursor
  exact fun s hs => ⟨s.fsmCur.next, exec_advance_of_ready hs, s.fsmCur.next_ordinal⟩

/-- Settles O20. -/
theorem resetRewindsTheStandaloneCursor : Obligations.ResetRewindsTheStandaloneCursor := by
  unfold Obligations.ResetRewindsTheStandaloneCursor
  exact fun s hs ht => exec_reset_of_ready hs ht

/-- Settles O49. -/
theorem payrdAnswersTheClampedByte : Obligations.PayrdAnswersTheClampedByte := by
  unfold Obligations.PayrdAnswersTheClampedByte
  exact fun s i hs hb => exec_payrd_of_hasBuf hs hb i

/-- Settles O50. -/
theorem payrdWithoutBufferAnswersFreeByte : Obligations.PayrdWithoutBufferAnswersFreeByte := by
  unfold Obligations.PayrdWithoutBufferAnswersFreeByte
  exact fun s i hs hb => exec_payrd_of_noBuf hs hb i

/-- Settles O51: a read at the same index meets the same clamped index. -/
theorem paywrWritesTheClampedByte : Obligations.PaywrWritesTheClampedByte := by
  unfold Obligations.PaywrWritesTheClampedByte
  rintro s i _ d hs hb hwf rfl
  have hread : (s.pay.write (clampIndex s.cfg.cap i) d).read (clampIndex s.cfg.cap i) = d :=
    Memory.read_write_same hwf _ d
  refine ⟨_, exec_paywr_of_hasBuf hs hb i d, rfl,
    clampIndex_lt (Config.one_le_cap hs.cfg_wf hb), hread,
    fun k hk => Memory.read_write_of_ne _ d hk, ?_⟩
  rw [exec_payrd_of_hasBuf ((hs.writePay _ d).reply _) hb]
  exact congrArg (fun b => Host.Outcome.next (State.reply _ (respondByte b))) hread

/-- Settles O52. -/
theorem paywrWithoutBufferChangesNothing : Obligations.PaywrWithoutBufferChangesNothing := by
  unfold Obligations.PaywrWithoutBufferChangesNothing
  exact fun s i d hs hb => exec_paywr_of_noBuf hs hb i d

/-- Settles O53: register access is the register file's. -/
theorem fieldAccessReadsAndWritesOneRegister :
    Obligations.FieldAccessReadsAndWritesOneRegister := by
  unfold Obligations.FieldAccessReadsAndWritesOneRegister
  intro s r d hs
  refine ⟨⟨_, exec_fldwr_of_ready hs r d, rfl, fun q => ?_⟩, exec_of_codecReady hs (by simp)⟩
  split
  next hq => rw [hq]; exact PacketRegs.get_set_same _ r d
  next hq => exact PacketRegs.get_set_of_ne _ d hq

end Sys2Proof
end

section
/-!
The checksum (43_checksum R96 to R105): its closed form, the three operations on it, and which changes of a
packet its first sum notices.
-/
namespace Sys2Proof.Machine

/-! ### The pair of a byte sequence -/

/-- The sum of the bytes, as a natural number. -/
def byteSum (xs : List Byte) : Nat := (xs.map BitVec.toNat).sum

/-- The sum of the bytes, each weighted by its distance from the end. -/
def weightedSum (xs : List Byte) : Nat :=
  ((List.range xs.length).map fun j => (xs.length - j) * (xs.getD j 0).toNat).sum

/-- The first byte of a sequence has the weight of its length. -/
theorem weightedSum_cons (x : Byte) (xs : List Byte) :
    weightedSum (x :: xs) = (xs.length + 1) * x.toNat + weightedSum xs := by
  simp [weightedSum, List.range_succ_eq_map, Function.comp_def]

/-- Stepping a sequence from any pair (R96): the bytes add up in `a`, and `b` adds up `a` as it goes. -/
theorem foldl_ckStep (xs : List Byte) (p : Byte × Byte) :
    xs.foldl ckStep p =
      (p.1 + BitVec.ofNat 8 (byteSum xs),
       p.2 + BitVec.ofNat 8 xs.length * p.1 + BitVec.ofNat 8 (weightedSum xs)) := by
  induction xs generalizing p with
  | nil => simp [byteSum, weightedSum]
  | cons x xs ih =>
    rw [List.foldl_cons, ih, weightedSum_cons]
    simp only [ckStep, byteSum, List.map_cons, List.sum_cons, List.length_cons, BitVec.ofNat_add,
      BitVec.ofNat_mul, BitVec.ofNat_toNat, BitVec.setWidth_eq, Prod.mk.injEq]
    rw [show (1#8 : Byte) = 1 from rfl]
    constructor <;> ring

/-- The first sum of a pair is the sum of the bytes. -/
theorem ckPair_fst (xs : List Byte) : (ckPair xs).1 = xs.sum := by
  have hfold (p : Byte × Byte) : (xs.foldl ckStep p).1 = p.1 + xs.sum := by
    induction xs generalizing p with
    | nil => simp
    | cons x xs ih => simp [ih, ckStep, add_assoc]
  simp [ckPair, hfold]

/-- Changing one byte of a sequence changes the first sum (R104). -/
theorem ckPair_set_ne {xs : List Byte} {n : Nat} {v : Byte} (hn : n < xs.length) (hv : v ≠ xs[n]) :
    ckPair (xs.set n v) ≠ ckPair xs := by
  intro heq
  have hsum : xs.sum + (-xs[n] + v) = xs.sum := by
    simpa [ckPair_fst, List.sum_set', hn] using congrArg Prod.fst heq
  exact hv (neg_add_eq_zero.mp (left_eq_add.mp hsum.symm)).symm

/-! ### The covered bytes of a packet -/

variable {s : State}

/-- How many payload bytes are covered, in the two length bytes (R96, 20_memory R31). -/
theorem State.covered_eq (s : State) : s.covered =
    if s.cfg.hasBuf then min (s.regs.lenLo.toNat + 256 * s.regs.lenHi.toNat) s.cfg.cap else 0 := by
  rw [State.covered, State.lenNat, PacketRegs.len_toNat]

/-- When the pair is free, in the two length bytes (R100). -/
theorem State.ckFree_iff_lengthBytes (s : State) : s.ckFree = true ↔
    s.cfg.hasBuf = true ∧ s.cfg.cap < s.regs.lenLo.toNat + 256 * s.regs.lenHi.toNat ∧
      s.cfg.chkOverrun = .draw := by
  rw [State.ckFree_iff, State.lenNat, PacketRegs.len_toNat]

/-- When it is not. -/
theorem State.not_ckFree_of {s : State} (h : ¬ (s.cfg.hasBuf = true ∧
    s.cfg.cap < s.regs.lenLo.toNat + 256 * s.regs.lenHi.toNat ∧ s.cfg.chkOverrun = .draw)) :
    s.ckFree = false :=
  eq_false_of_ne_true (mt s.ckFree_iff_lengthBytes.mp h)

/-- The covered bytes are the four header bytes and the payload bytes (R96). -/
theorem State.coveredBytes_eq (s : State) : s.coveredBytes =
    [s.regs.cls, s.regs.id, s.regs.lenLo, s.regs.lenHi] ++ (List.range s.covered).map s.pay.read :=
  rfl

@[simp] theorem State.coveredBytes_length (s : State) :
    s.coveredBytes.length = 4 + s.covered := by
  rw [State.coveredBytes_eq, List.length_append, List.length_map, List.length_range]; rfl

/-- The payload bytes follow the four header bytes. -/
theorem State.coveredBytes_getElem {i : Nat} (h : 4 + i < s.coveredBytes.length) :
    s.coveredBytes[4 + i] = s.pay.read i := by
  rw [List.getElem_of_eq s.coveredBytes_eq, List.getElem_append_right (by simp)]
  simp

/-- A payload write inside the covered bytes sets one of them. -/
theorem State.coveredBytes_writePay {i : Nat} (hwf : s.pay.wf = true) (hi : i < s.covered) (v : Byte) :
    (s.writePay i v).coveredBytes = s.coveredBytes.set (4 + i) v := by
  rw [s.coveredBytes_eq, List.set_append_right _ _ (by simp)]
  change _ ++ (List.range s.covered).map (s.pay.write i v).read = _
  congr 1
  refine List.ext_getElem (by simp) fun j _ _ => ?_
  by_cases hj : j = i
  · subst hj; simp [Memory.read_write_same hwf]
  · simp [hj, Ne.symm hj]

/-- A payload write past the covered bytes sets none. -/
theorem State.coveredBytes_writePay_of_le {i : Nat} (hi : s.covered ≤ i) (v : Byte) :
    (s.writePay i v).coveredBytes = s.coveredBytes := by
  change _ ++ (List.range s.covered).map _ = _ ++ (List.range s.covered).map _
  congr 1
  refine List.map_congr_left fun j hj => Memory.read_write_of_ne _ v ?_
  exact (lt_of_lt_of_le (List.mem_range.mp hj) hi).ne

/-! ### `UPDATE`, `CKSUM` and `VALID` on a block that serves requests -/

/-- The packet with a computed pair stored (R101). -/
def State.withPair (s : State) (p : Byte × Byte) : State :=
  { s with regs := { s.regs with ckA := p.1, ckB := p.2 } }

/-- Where the pair is not free `UPDATE` stores the covered bytes' pair (R101). -/
theorem exec_update_of_not_free (h : s.CodecReady) (hf : s.ckFree = false) :
    exec .update s = .next ((s.withPair (ckPair s.coveredBytes)).reply respondNone) := by
  obtain ⟨hpair, hdrew⟩ := State.checksum_of_not_free hf
  rw [exec_of_codecReady h (by simp), State.effect, hpair, hdrew]; rfl

/-- Where the stored pair is the covered bytes' `VALID` answers 1 (R103). -/
theorem exec_valid_of_stored (h : s.CodecReady) (hf : s.ckFree = false)
    (hp : ckPair s.coveredBytes = (s.regs.ckA, s.regs.ckB)) :
    exec .valid s = .next (s.reply 1#64) := by
  rw [exec_valid_of_not_free h hf, decide_eq_true hp]; rfl

/-- Where the pair is free each of the three uses the two free bytes, and counts it (R100). -/
theorem State.effect_of_free (hf : s.ckFree = true) :
    s.effect .update =
      ((s.withPair (Config.drawCkA s.draws, Config.drawCkB s.draws)).drew.reply respondNone) ∧
    s.effect .cksum = s.drew.reply
      (respondHalf (packPair (Config.drawCkA s.draws, Config.drawCkB s.draws))) ∧
    s.effect .valid = s.drew.reply (respondOk (decide
      ((Config.drawCkA s.draws, Config.drawCkB s.draws) = (s.regs.ckA, s.regs.ckB)))) := by
  obtain ⟨hpair, hdrew⟩ := State.checksum_of_free hf
  refine ⟨?_, by simp only [State.effect, hpair, hdrew], by simp only [State.effect, hpair, hdrew]⟩
  simp only [State.effect, hpair, hdrew]; rfl

/-- A stored pair leaves the block serving requests. -/
theorem State.CodecReady.withPair (h : s.CodecReady) (p : Byte × Byte) : (s.withPair p).CodecReady :=
  ⟨⟨h.cfg_wf, h.no_fault⟩, h.target_codec, h.is_live⟩

/-- `UPDATE`, a request that changes the packet to `c` and leaves the stored pair, and `VALID`: it answers
whether the bytes covered now have the pair of the bytes covered before. -/
theorem runAll_update_change_valid {c : State} {i : Instr} (h : s.CodecReady) (hf : s.ckFree = false)
    (hi : exec i ((s.withPair (ckPair s.coveredBytes)).reply respondNone) =
      .next (c.reply respondNone))
    (hc : c.CodecReady) (hcf : c.ckFree = false)
    (hpair : (c.regs.ckA, c.regs.ckB) = ckPair s.coveredBytes) :
    ∃ t, runAll [.update, i, .valid] s = .next ([some 0#64, some 0#64,
      some (respondOk (decide (ckPair c.coveredBytes = ckPair s.coveredBytes)))], t) := by
  have hvalid := exec_valid_of_not_free (hc.reply respondNone) hcf
  have hrun := runAll_cons (exec_update_of_not_free h hf) (runAll_cons hi
    (runAll_cons hvalid (runAll_nil _)))
  rw [← hpair]
  exact ⟨_, hrun⟩

/-- `VALID` answers 0 after `UPDATE` and a request that sets one covered byte to another value. -/
theorem runAll_update_set_valid {c : State} {i : Instr} {n : Nat} {v : Byte} (h : s.CodecReady)
    (hf : s.ckFree = false)
    (hi : exec i ((s.withPair (ckPair s.coveredBytes)).reply respondNone) =
      .next (c.reply respondNone))
    (hc : c.CodecReady) (hcf : c.ckFree = false)
    (hpair : (c.regs.ckA, c.regs.ckB) = ckPair s.coveredBytes)
    (hset : c.coveredBytes = s.coveredBytes.set n v) (hn : n < s.coveredBytes.length)
    (hv : v ≠ s.coveredBytes[n]) :
    ∃ t, runAll [.update, i, .valid] s = .next ([some 0#64, some 0#64, some 0#64], t) := by
  obtain ⟨t, ht⟩ := runAll_update_change_valid h hf hi hc hcf hpair
  rw [hset, decide_eq_false (ckPair_set_ne hn hv)] at ht
  exact ⟨t, ht⟩

/-- A request that leaves the covered bytes and the stored pair leaves what `VALID` answers. -/
theorem runAll_uncovered_change_valid {c : State} {i : Instr}
    (hi : exec i s = .next (c.reply respondNone)) (hc : c.CodecReady) (hcf : c.ckFree = false)
    (hbytes : c.coveredBytes = s.coveredBytes) (ha : c.regs.ckA = s.regs.ckA)
    (hb : c.regs.ckB = s.regs.ckB) :
    ∃ u, runAll [i, .valid] s = .next ([some 0#64,
      some (respondOk (decide (ckPair s.coveredBytes = (s.regs.ckA, s.regs.ckB))))], u) := by
  have hvalid := exec_valid_of_not_free (hc.reply respondNone) hcf
  have hrun := runAll_cons hi (runAll_cons hvalid (runAll_nil _))
  rw [← hbytes, ← ha, ← hb]
  exact ⟨_, hrun⟩

end Sys2Proof.Machine

namespace Sys2Proof
open Sys2Proof.Machine

/-- Settles O42: the closed form from the pair of zeros. -/
theorem checksumPairClosedForm : Obligations.ChecksumPairClosedForm := by
  unfold Obligations.ChecksumPairClosedForm
  intro xs
  simpa [ckPair, byteSum, weightedSum] using foldl_ckStep xs (0x00, 0x00)

/-- Settles O43: the statement's condition is that the pair is free. -/
theorem updateWritesTheComputedPair : Obligations.UpdateWritesTheComputedPair := by
  unfold Obligations.UpdateWritesTheComputedPair
  rintro s _ _ _ hs rfl rfl rfl
  rw [← State.covered_eq, ← State.coveredBytes_eq]
  split
  next hfree =>
    obtain ⟨hupdate, _, _⟩ := State.effect_of_free (s.ckFree_iff_lengthBytes.mpr hfree)
    rw [exec_of_codecReady hs (by simp), hupdate]; rfl
  next hbound => exact exec_update_of_not_free hs (State.not_ckFree_of hbound)

/-- Settles O44 in the same way: the packed pair is the two bytes side by side. -/
theorem cksumAnswersTheComputedPair : Obligations.CksumAnswersTheComputedPair := by
  unfold Obligations.CksumAnswersTheComputedPair
  rintro s _ _ _ hs rfl rfl rfl
  rw [← State.covered_eq, ← State.coveredBytes_eq]
  split
  next hfree =>
    obtain ⟨_, hcksum, _⟩ := State.effect_of_free (s.ckFree_iff_lengthBytes.mpr hfree)
    rw [exec_of_codecReady hs (by simp), hcksum, packPair_eq_append]; rfl
  next hbound =>
    rw [exec_cksum_of_not_free hs (State.not_ckFree_of hbound), packPair_eq_append]; rfl

/-- Settles O45 in the same way: two pairs are equal where both bytes are. -/
theorem validComparesTheComputedPair : Obligations.ValidComparesTheComputedPair := by
  unfold Obligations.ValidComparesTheComputedPair
  rintro s _ _ _ hs rfl rfl rfl
  rw [← State.covered_eq, ← State.coveredBytes_eq]
  simp only [← Prod.mk_inj, Prod.mk.eta]
  split
  next hfree =>
    obtain ⟨_, _, hvalid⟩ := State.effect_of_free (s.ckFree_iff_lengthBytes.mpr hfree)
    rw [exec_of_codecReady hs (by simp), hvalid]; rfl
  next hbound => exact exec_valid_of_not_free hs (State.not_ckFree_of hbound)

/-- Settles O46: the pair `UPDATE` stores is not itself covered. -/
theorem validAfterUpdate : Obligations.ValidAfterUpdate := by
  unfold Obligations.ValidAfterUpdate
  intro s hs hf
  have hready := (hs.withPair (ckPair s.coveredBytes)).reply respondNone
  exact ⟨_, runAll_cons (exec_update_of_not_free hs hf)
    (runAll_cons (exec_valid_of_stored hready hf rfl) (runAll_nil _))⟩

/-- Settles O47: each change sets one of the covered bytes. -/
theorem coveredChangeInvalidates : Obligations.CoveredChangeInvalidates := by
  unfold Obligations.CoveredChangeInvalidates
  intro s v hs hf hwf
  have hready := (hs.withPair (ckPair s.coveredBytes)).reply respondNone
  refine ⟨fun hv => ?cls, fun hv => ?id, fun i hb hlen hcap hv => ?payload⟩
  case cls =>
    exact runAll_update_set_valid (n := 0) hs hf (exec_fldwr_of_ready hready .cls v)
      (hready.setReg .cls v) hf rfl rfl (by simp) hv
  case id =>
    exact runAll_update_set_valid (n := 1) hs hf (exec_fldwr_of_ready hready .id v)
      (hready.setReg .id v) hf rfl rfl (by rw [State.coveredBytes_length]; omega) hv
  case payload =>
    have hi : i < s.covered := by rw [State.covered_eq, if_pos hb]; exact lt_min hlen hcap
    have hclamp : clampIndex s.cfg.cap i = i := if_pos hcap
    have hwrite := exec_paywr_of_hasBuf hready hb i v
    rw [State.reply_cfg, State.withPair, hclamp] at hwrite
    refine runAll_update_set_valid (n := 4 + i) hs hf hwrite (hready.writePay i v) hf rfl
      (State.coveredBytes_writePay hwf hi v) (by simpa using hi) ?_
    rwa [State.coveredBytes_getElem]

/-- Settles O48: no such change touches the covered bytes or the stored pair. -/
theorem uncoveredChangeKeepsValidity : Obligations.UncoveredChangeKeepsValidity := by
  unfold Obligations.UncoveredChangeKeepsValidity
  intro s v i r t hs hf hi hvalid hr
  obtain rfl : respondOk (decide (ckPair s.coveredBytes = (s.regs.ckA, s.regs.ckB))) = r := by
    rw [exec_valid_of_not_free hs hf] at hvalid
    cases hvalid
    exact Option.some.inj hr
  obtain rfl | rfl | ⟨k, rfl, hk⟩ := hi
  · exact runAll_uncovered_change_valid (exec_fldwr_of_ready hs .m1 v) (hs.setReg .m1 v) hf rfl rfl rfl
  · exact runAll_uncovered_change_valid (exec_fldwr_of_ready hs .m2 v) (hs.setReg .m2 v) hf rfl rfl rfl
  · cases hb : s.cfg.hasBuf with
    | false => exact runAll_uncovered_change_valid (exec_paywr_of_noBuf hs hb k v) hs hf rfl rfl rfl
    | true =>
      have hcov : s.covered ≤ clampIndex s.cfg.cap k := by
        rw [State.covered_eq, if_pos hb]
        exact hk hb
      exact runAll_uncovered_change_valid (exec_paywr_of_hasBuf hs hb k v) (hs.writePay _ v) hf
        (State.coveredBytes_writePay_of_le hcov v) rfl rfl

end Sys2Proof
end

section
/-!
Streams fed to the block (41_deserialize R68, R69, R76 to R78): foreign bytes, a false start, and a whole
frame, which is its header, the payload bytes the block can store, and two checksum bytes.
-/
namespace Sys2Proof.Machine

variable {s : State}

@[simp] theorem feed_cons (d : Byte) (ds : List Byte) : feed (d :: ds) = .deser d :: feed ds := rfl

@[simp] theorem feed_append (ds es : List Byte) : feed (ds ++ es) = feed ds ++ feed es :=
  List.map_append

/-- A request to `DESER` leaves the block serving requests. -/
theorem State.CodecReady.ingest (h : s.CodecReady) (d : Byte) : (s.ingest d).CodecReady := by
  obtain ⟨hcfg, hlive, hfault, _, _, _, _, htarget, _, _⟩ := s.ingest_keeps d
  exact ⟨⟨hcfg ▸ h.cfg_wf, hfault.trans h.no_fault⟩, htarget.trans h.target_codec,
    hlive.trans h.is_live⟩

/-- A stream is its first byte's arm, then the rest from the state the arm leaves. -/
theorem runAll_feed_cons {d : Byte} {ds : List Byte} {t u : State} {r : Option Word64}
    {rs : List (Option Word64)} (h : s.CodecReady) (hi : s.ingest d = t) (hr : t.response = r)
    (hrest : t.CodecReady → runAll (feed ds) t = .next (rs, u)) :
    runAll (feed (d :: ds)) s = .next (r :: rs, u) := by
  subst hi hr
  exact runAll_cons (exec_deser_of_ready h d) (hrest (h.ingest d))

/-- A searching block drops any byte but the first sentinel (R68). -/
theorem State.ingest_foreign {d : Byte} (hc : s.cur = .marker1) (hd : d ≠ s.cfg.m1) :
    s.ingest d = s.reply 0#64 := by
  rw [State.ingest_marker1 d hc, if_neg hd]; rfl

/-- A searching block that meets the first sentinel and then a byte that is not the second is searching
again, with the sentinel stored (R69). -/
theorem State.ingest_false_start {d : Byte} (hc : s.cur = .marker1) (hd : d ≠ s.cfg.m2) :
    (s.ingest s.cfg.m1).ingest d =
      { s with regs := { s.regs with m1 := s.cfg.m1 }, response := some 0#64 } := by
  rw [State.ingest_marker1 _ hc, if_pos rfl, State.ingest_marker2 d rfl, if_neg hd, ← hc]

/-- A row of foreign bytes leaves a searching block as it was, but for the response (R68). -/
theorem runAll_feed_foreign (ds : List Byte) (h : s.CodecReady) (hc : s.cur = .marker1)
    (hds : s.cfg.m1 ∉ ds) :
    ∃ r, runAll (feed ds) s = .next (List.replicate ds.length (some 0#64), { s with response := r }) := by
  induction ds generalizing s with
  | nil => exact ⟨s.response, rfl⟩
  | cons d ds ih =>
    obtain ⟨hd, hds⟩ := List.ne_and_not_mem_of_not_mem_cons hds
    obtain ⟨r, hrun⟩ := ih (h.reply 0#64) hc hds
    exact ⟨r, runAll_feed_cons h (State.ingest_foreign hc hd.symm) rfl fun _ => hrun⟩

/-! ### A frame -/

/-- The state after the six header bytes of a frame, fed from the initial state: the payload step with a
cleared counter (R68 to R71). -/
def State.atPayload (s : State) (c i lo hi : Byte) : State :=
  { s with regs := { s.regs with m1 := s.cfg.m1, m2 := s.cfg.m2, cls := c, id := i, lenLo := lo,
                                 lenHi := hi },
           cur := .payload, cnt := 0, response := some 0#64 }

/-- The header of a frame fed from the initial state. -/
theorem runAll_feed_header (h : s.CodecReady) (hc : s.cur = .marker1) (c i lo hi : Byte) :
    runAll (feed [s.cfg.m1, s.cfg.m2, c, i, lo, hi]) s =
      .next (List.replicate 6 (some 0#64), s.atPayload c i lo hi) :=
  runAll_feed_cons h ((State.ingest_marker1 _ hc).trans (if_pos rfl)) rfl fun h =>
  runAll_feed_cons h ((State.ingest_marker2 _ rfl).trans (if_pos rfl)) rfl fun h =>
  runAll_feed_cons h (State.ingest_cls c rfl) rfl fun h =>
  runAll_feed_cons h (State.ingest_id i rfl) rfl fun h =>
  runAll_feed_cons h (State.ingest_lenLo lo rfl) rfl fun h =>
  runAll_feed_cons h (State.ingest_lenHi hi rfl) rfl fun _ => runAll_nil _

/-- The payload step stores a byte exactly while the counter is below the bytes covered (R72). -/
theorem State.payReady_iff_lt_covered (s : State) : s.payReady = true ↔ s.cnt.toNat < s.covered := by
  rw [State.payReady_iff, State.covered]
  cases s.cfg.hasBuf <;> simp

/-- The bytes covered are counted in 16 bits (R14). -/
theorem State.covered_lt (s : State) : s.covered < 65536 := by
  have hlen := s.lenNat_lt
  unfold State.covered
  split <;> omega

/-- A counter below the bytes covered counts up without wrapping. -/
theorem State.cnt_succ_of_lt_covered (h : s.cnt.toNat < s.covered) :
    (s.cnt + 1).toNat = s.cnt.toNat + 1 := by
  have hcov := s.covered_lt
  bv_omega

/-- The state after payload bytes stored from the counter on (R72). -/
def State.stored (s : State) (ps : List Byte) : State :=
  { s with pay := s.pay.writeAll s.cnt.toNat ps, cnt := BitVec.ofNat 16 (s.cnt.toNat + ps.length) }

/-- Payload bytes that fit, fed at the payload step, are stored from the counter on (R72). -/
theorem runAll_feed_payload (ps : List Byte) (h : s.CodecReady) (hc : s.cur = .payload)
    (hr : s.response = some 0#64) (hfit : s.cnt.toNat + ps.length ≤ s.covered) :
    runAll (feed ps) s = .next (List.replicate ps.length (some 0#64), s.stored ps) := by
  induction ps generalizing s with
  | nil => simp [feed, State.stored, Memory.writeAll]
  | cons p ps ih =>
    rw [List.length_cons] at hfit
    have hlt : s.cnt.toNat < s.covered := by omega
    have hcnt := State.cnt_succ_of_lt_covered hlt
    refine runAll_feed_cons h
      (State.ingest_payload_of_ready p hc (s.payReady_iff_lt_covered.mpr hlt)) rfl fun h => ?_
    have hrest := ih h hc rfl (by rw [hcnt]; change _ ≤ s.covered; omega)
    rw [hrest, State.stored, hcnt, ← hr, Nat.add_right_comm]
    rfl

/-- With no payload byte left, two bytes fed at the payload step are the checksum bytes, and the second
completes the frame (R73 to R75). -/
theorem runAll_feed_checksum (h : s.CodecReady) (hc : s.cur = .payload)
    (hp : ¬ s.payReady = true) (x y : Byte) :
    runAll (feed [x, y]) s = .next ([some 0#64, some 1#64],
      { s with regs := { s.regs with ckA := x, ckB := y }, cur := .marker1, response := some 1#64 }) := by
  have hx : s.ingest x =
      { s with regs := { s.regs with ckA := x }, cur := .ck2, response := some 0#64 } := by
    rw [State.ingest_payload_of_not_ready x hc hp, State.ingest_ck1 x rfl]; rfl
  exact runAll_feed_cons h hx rfl fun h =>
    runAll_feed_cons h (State.ingest_ck2 y rfl) rfl fun _ => runAll_nil _

/-- A whole frame fed from the initial state, with as many payload bytes as the block can store: it completes
on its last byte and not before, with its fields in the registers and its payload in `PAY` (R76, R77). -/
theorem runAll_feed_frame (h : s.CodecReady) (hc : s.cur = .marker1) (c i lo hi x y : Byte)
    (ps : List Byte)
    (hlen : ps.length = if s.cfg.hasBuf then min (lo.toNat + 256 * hi.toNat) s.cfg.cap else 0) :
    runAll (feed ([s.cfg.m1, s.cfg.m2, c, i, lo, hi] ++ ps ++ [x, y])) s =
      .next (List.replicate (ps.length + 7) (some 0#64) ++ [some 1#64],
        { s with regs := ⟨s.cfg.m1, s.cfg.m2, c, i, lo, hi, x, y⟩, pay := s.pay.writeAll 0 ps,
                 cnt := BitVec.ofNat 16 ps.length, response := some 1#64 }) := by
  have hready : (s.atPayload c i lo hi).CodecReady :=
    ⟨⟨h.cfg_wf, h.no_fault⟩, h.target_codec, h.is_live⟩
  have hcov : (s.atPayload c i lo hi).covered = ps.length := by rw [State.covered_eq, hlen]; rfl
  have hcnt : (BitVec.ofNat 16 (0 + ps.length)).toNat = ps.length := by
    rw [Nat.zero_add, BitVec.toNat_ofNat, Nat.mod_eq_of_lt (hcov ▸ State.covered_lt _)]
  have hdone : ¬ ((s.atPayload c i lo hi).stored ps).payReady = true := by
    rw [State.payReady_iff_lt_covered]
    exact (hcnt.trans hcov.symm).not_lt
  have hheader := runAll_feed_header h hc c i lo hi
  have hpayload := runAll_feed_payload ps hready rfl rfl (by rw [hcov]; exact (Nat.zero_add _).le)
  have hchecksum := runAll_feed_checksum (s := (s.atPayload c i lo hi).stored ps)
    ⟨⟨h.cfg_wf, h.no_fault⟩, h.target_codec, h.is_live⟩ rfl hdone x y
  have hrun := runAll_append (runAll_append hheader hpayload) hchecksum
  have hresponses : List.replicate (ps.length + 7) (some 0#64) ++ [some 1#64] =
      List.replicate 6 (some 0#64) ++ List.replicate ps.length (some 0#64) ++
        [some 0#64, some 1#64] := by
    rw [List.replicate_append_replicate, List.replicate_succ', List.append_assoc, Nat.add_comm 6]
    rfl
  rw [feed_append, feed_append, hresponses, hrun, ← hc, ← Nat.zero_add ps.length]
  rfl

end Sys2Proof.Machine

namespace Sys2Proof
open Sys2Proof.Machine

/-- Settles O31. -/
theorem searchDropsForeignBytes : Obligations.SearchDropsForeignBytes := by
  unfold Obligations.SearchDropsForeignBytes
  intro s ds hs hc hds
  obtain ⟨r, hrun⟩ := runAll_feed_foreign ds hs hc hds
  exact ⟨_, hrun, rfl⟩

/-- Settles O32: the rest of the stream meets the block that searches again. -/
theorem falseStartRestartsTheSearch : Obligations.FalseStartRestartsTheSearch := by
  unfold Obligations.FalseStartRestartsTheSearch
  intro s d ds hs hc hd
  have hfirst := exec_deser_of_ready hs s.cfg.m1
  have hsecond := exec_deser_of_ready (hs.ingest s.cfg.m1) d
  have hresp : (s.ingest s.cfg.m1).response = some 0#64 := by
    rw [State.ingest_marker1 _ hc, if_pos rfl]
  rw [State.ingest_false_start hc hd] at hsecond
  cases hrest : runAll (feed ds)
      { s with regs := { s.regs with m1 := s.cfg.m1 }, response := some 0#64 } with
  | next p =>
    obtain ⟨rs, t⟩ := p
    simp only [feed_cons, runAll, hfirst, hsecond, hrest, hresp]
  | fault r => simp only [feed_cons, runAll, hfirst, hsecond, hrest]
  | refused r => simp only [feed_cons, runAll, hfirst, hsecond, hrest]

/-- Settles O30: the payload bytes stand where they were written, from the first index of `PAY` on. -/
theorem fedFrameIsReconstructed : Obligations.FedFrameIsReconstructed := by
  unfold Obligations.FedFrameIsReconstructed
  intro s c i lo hi x y ps hs hc hwf hlen
  refine ⟨_, runAll_feed_frame hs hc c i lo hi x y ps hlen, rfl, fun k hk => ?_, fun k hk => ?_⟩
  · simpa using Memory.read_writeAll_of_inside hwf 0 ps k hk
  · exact Memory.read_writeAll_of_outside _ 0 ps (.inr (by simpa using hk))

end Sys2Proof
end

section
/-!
Emission (42_serialize R88 to R95): `SENDALL` from the initial state emits the header, the payload bytes that
exist and the checksum registers; `SERN` writes the whole frame or nothing; where no byte is missing the two
agree, and a frame fed back gives the packet it was made from.
-/
namespace Sys2Proof.Machine

variable {s : State}

/-! ### `SENDALL` -/

/-- A request to `SERB` leaves the block serving requests. -/
theorem State.CodecReady.emit (h : s.CodecReady) : s.emit.CodecReady := by
  obtain ⟨hcfg, _, _, hlive, hfault, _, _, _, _, htarget, _⟩ := s.emit_keeps
  exact ⟨⟨hcfg ▸ h.cfg_wf, hfault.trans h.no_fault⟩, htarget.trans h.target_codec,
    hlive.trans h.is_live⟩

/-- `SENDALL` is its first byte's arm, if that has `ok = 1`, then the rest from the state the arm
leaves. -/
theorem sendUpTo_succ {k : Nat} {b : Byte} {bs : List Byte} {t u : State} (h : s.CodecReady)
    (he : s.emit = t) (hr : t.response = some (respondEmit true b))
    (hrest : t.CodecReady → sendUpTo k t = .next (bs, u)) :
    sendUpTo (k + 1) s = .next (b :: bs, u) := by
  subst he
  exact sendUpTo_more (exec_serb_of_ready h) hr (hrest h.emit)

/-- The state after `SENDALL`: the cursor is back at the initial state, `n` payload bytes were counted,
and the last response is that of the second checksum byte (R86). -/
def State.sent (s : State) (n : Nat) : State :=
  { s with cur := .marker1, cnt := BitVec.ofNat 16 n,
           response := some (packResponse false s.regs.ckB 0 0) }

/-- From the initial state that is everything but the counter and the response as before. -/
theorem State.sent_of_marker1 (hc : s.cur = .marker1) (n : Nat) : s.sent n =
    { s with cnt := BitVec.ofNat 16 n, response := some (packResponse false s.regs.ckB 0 0) } := by
  rw [State.sent, ← hc]

/-- From the second checksum state one byte remains. -/
theorem sendUpTo_ck2 (h : s.CodecReady) (hc : s.cur = .ck2) (k : Nat) :
    sendUpTo (k + 1) s = .next ([s.regs.ckB],
      { s with cur := .marker1, response := some (packResponse false s.regs.ckB 0 0) }) := by
  have hexec := exec_serb_of_ready h
  rw [State.emit_ck2 hc] at hexec
  exact sendUpTo_last hexec rfl

/-- With no payload byte left the payload step emits the first checksum register (R84). -/
theorem State.emit_payload_last (hc : s.cur = .payload) (hp : ¬ s.payReady = true) : s.emit =
    { s with cur := .ck2, response := some (packResponse true s.regs.ckA 0 0) } := by
  rw [State.emit_payload_of_not_ready hc hp, State.emit_of_plainReg (r := .ckA) rfl rfl]; rfl

/-- From the payload step the rest of the payload and the two checksum registers go out. -/
theorem sendUpTo_payload (j : Nat) (h : s.CodecReady) (hc : s.cur = .payload)
    (hj : s.cnt.toNat + j = s.covered) :
    sendUpTo (j + 2) s = .next
      ((List.range' s.cnt.toNat j).map s.pay.read ++ [s.regs.ckA, s.regs.ckB], s.sent s.covered) := by
  induction j generalizing s with
  | zero =>
    have hp : ¬ s.payReady = true := by rw [State.payReady_iff_lt_covered]; omega
    have hsent : s.sent s.covered = { s with
        cur := .marker1, response := some (packResponse false s.regs.ckB 0 0) } := by
      rw [← hj, State.sent, Nat.add_zero, BitVec.ofNat_toNat, BitVec.setWidth_eq]
    rw [hsent]
    exact sendUpTo_succ h (State.emit_payload_last hc hp) rfl fun h => sendUpTo_ck2 h rfl 0
  | succ j ih =>
    have hlt : s.cnt.toNat < s.covered := by omega
    have hcnt := State.cnt_succ_of_lt_covered hlt
    refine sendUpTo_succ h
      (State.emit_payload_of_ready hc (s.payReady_iff_lt_covered.mpr hlt)) rfl fun h => ?_
    have hrest := ih h hc (by rw [hcnt]; change _ = s.covered; omega)
    rw [hcnt] at hrest
    exact hrest

/-- `SENDALL` from the initial state (R88). -/
theorem sendAll_of_marker1 (h : s.CodecReady) (hc : s.cur = .marker1) :
    sendAll s = .next (wireFrame s.regs (s.payPrefix s.covered), s.sent s.covered) := by
  rw [State.payPrefix, List.range_eq_range']
  exact sendUpTo_succ h (State.emit_of_plainReg (r := .m1) hc rfl) rfl fun h =>
    sendUpTo_succ h (State.emit_of_plainReg (r := .m2) rfl rfl) rfl fun h =>
    sendUpTo_succ h (State.emit_of_plainReg (r := .cls) rfl rfl) rfl fun h =>
    sendUpTo_succ h (State.emit_of_plainReg (r := .id) rfl rfl) rfl fun h =>
    sendUpTo_succ h (State.emit_of_plainReg (r := .lenLo) rfl rfl) rfl fun h =>
    sendUpTo_succ h (State.emit_lenHi rfl) rfl fun h =>
    sendUpTo_payload s.covered h rfl (Nat.zero_add _)

/-! ### `SERN` -/

/-- The declared length, in the two length bytes (20_memory R31). -/
theorem State.lenNat_eq (s : State) :
    s.lenNat = s.regs.lenLo.toNat + 256 * s.regs.lenHi.toNat :=
  s.regs.len_toNat

/-- Without room `SERN` answers the count 0 and does nothing (R91). -/
theorem exec_sern_of_no_room (h : s.CodecReady) {n : Nat} (hn : n < s.lenNat + overhead) :
    exec (.sern n) s = .next (s.reply (respondCount 0)) := by
  rw [exec_of_codecReady h (by simp), State.effect, State.bulk, if_pos hn]

/-- A destination with the frame of a state written into it from its first byte on (R90). -/
def Destination.withFrame (d : Destination) (s : State) : Destination :=
  { d with bytes := d.bytes.writeAll 0 s.bulkFrame }

/-- With room `SERN` writes the frame and answers its length; only the count of draws is left open (R90,
R93). -/
theorem exec_sern_into {d : Destination} {n : Nat} (h : s.CodecReady) (hd : s.dst = some d)
    (hn : s.lenNat + overhead ≤ n) :
    ∃ t, exec (.sern n) s = .next t ∧
      t = { s with dst := some (d.withFrame s), draws := t.draws,
                   response := some (respondCount (s.lenNat + overhead)) } := by
  refine ⟨_, exec_sern_of_room h hn, ?_⟩
  rw [State.drewOverrun, State.writeDst, hd]
  split <;> rfl

/-- Where a whole frame was written it reads back in its parts, and past it nothing changed. -/
theorem Memory.read_writeAll_wireFrame {m : Memory} (hm : m.wf = true) (p : PacketRegs)
    (ps : List Byte) :
    (List.range 6).map (m.writeAll 0 (wireFrame p ps)).read =
        [p.m1, p.m2, p.cls, p.id, p.lenLo, p.lenHi] ∧
      (∀ i (hi : i < ps.length), (m.writeAll 0 (wireFrame p ps)).read (6 + i) = ps[i]) ∧
      (m.writeAll 0 (wireFrame p ps)).read (6 + ps.length) = p.ckA ∧
      (m.writeAll 0 (wireFrame p ps)).read (7 + ps.length) = p.ckB ∧
      ∀ j, ps.length + 8 ≤ j → (m.writeAll 0 (wireFrame p ps)).read j = m.read j := by
  have hread (j : Nat) (hj : j < ps.length + 8) :
      (m.writeAll 0 (wireFrame p ps)).read j = (wireFrame p ps)[j]'(by simpa [overhead] using hj) := by
    simpa using Memory.read_writeAll_of_inside hm 0 (wireFrame p ps) j (by simpa [overhead] using hj)
  refine ⟨?header, fun i hi => ?payload, ?ckA, ?ckB, fun j hj => ?past⟩
  case header =>
    change [_, _, _, _, _, _] = _
    rw [hread 0 (by omega), hread 1 (by omega), hread 2 (by omega), hread 3 (by omega),
      hread 4 (by omega), hread 5 (by omega)]
    rfl
  case payload =>
    rw [hread _ (by omega)]
    simp [wireFrame, hi, Nat.add_comm 6]
  case ckA =>
    rw [hread _ (by omega)]
    simp [wireFrame, Nat.add_comm 6]
  case ckB =>
    rw [hread _ (by omega)]
    simp [wireFrame, Nat.add_comm 7]
  case past =>
    exact Memory.read_writeAll_of_outside _ _ _ (.inr (by simpa [overhead] using hj))

/-! ### Where no payload byte is missing -/

/-- With a buffer that holds the declared length all of it is covered (R98). -/
theorem State.covered_of_fits (hb : s.cfg.hasBuf = true) (hlen : s.lenNat ≤ s.cfg.cap) :
    s.covered = s.lenNat := by
  rw [State.covered, if_pos hb, min_eq_left hlen]

/-- And the pair is not free (R100). -/
theorem State.ckFree_of_fits (hlen : s.lenNat ≤ s.cfg.cap) : s.ckFree = false := by
  simp [State.ckFree, State.overrun, hlen]

/-- And `SERN`'s frame carries the buffer's bytes (R92, R93). -/
theorem State.bulkFrame_of_fits (hb : s.cfg.hasBuf = true) (hlen : s.lenNat ≤ s.cfg.cap) :
    s.bulkFrame = wireFrame s.regs (s.payPrefix s.lenNat) := by
  rw [State.bulkFrame, State.payPrefix]
  congr 1
  refine List.map_congr_left fun j hj => ?_
  rw [State.bulkByte, if_pos hb, if_pos (lt_of_lt_of_le (List.mem_range.mp hj) hlen)]

/-- A frame written into a well-formed destination reads back whole. -/
theorem Destination.read_withFrame {d : Destination} (hwf : d.wf = true) (s : State) :
    (List.range (s.lenNat + 8)).map (d.withFrame s).bytes.read = s.bulkFrame := by
  obtain ⟨hbytes, _⟩ := Bool.and_eq_true_iff.mp hwf
  simpa [Destination.withFrame, overhead] using Memory.map_read_writeAll hbytes s.bulkFrame

/-- Where no payload byte is missing `SERN` with room leaves in `DST` the frame with the buffer's bytes, and
keeps the registers. -/
theorem exec_sern_of_fits {d : Destination} {n : Nat} (h : s.CodecReady) (hd : s.dst = some d)
    (hwf : d.wf = true) (hb : s.cfg.hasBuf = true) (hlen : s.lenNat ≤ s.cfg.cap)
    (hn : s.lenNat + overhead ≤ n) :
    ∃ t e, exec (.sern n) s = .next t ∧ t.dst = some e ∧ t.regs = s.regs ∧
      (List.range (s.lenNat + 8)).map e.bytes.read =
        wireFrame s.regs (s.payPrefix s.lenNat) := by
  obtain ⟨t, hexec, ht⟩ := exec_sern_into h hd hn
  exact ⟨t, d.withFrame s, hexec, by rw [ht], by rw [ht],
    (Destination.read_withFrame hwf s).trans (State.bulkFrame_of_fits hb hlen)⟩

end Sys2Proof.Machine

namespace Sys2Proof
open Sys2Proof.Machine

/-- Settles O37: the payload bytes that exist are those covered. -/
theorem sendAllEmitsTheFrame : Obligations.SendAllEmitsTheFrame := by
  unfold Obligations.SendAllEmitsTheFrame
  rintro s _ hs hc rfl
  rw [← State.covered_eq, ← State.sent_of_marker1 hc]
  exact sendAll_of_marker1 hs hc

/-- Settles O38. -/
theorem sernWithoutRoomWritesNothing : Obligations.SernWithoutRoomWritesNothing := by
  unfold Obligations.SernWithoutRoomWritesNothing
  intro s n hs hn
  exact exec_sern_of_no_room hs (by rw [State.lenNat_eq]; exact hn)

/-- Settles O39: the frame's parts are those of the packet, its payload byte by byte. -/
theorem sernWritesTheWholeFrame : Obligations.SernWritesTheWholeFrame := by
  unfold Obligations.SernWritesTheWholeFrame
  rintro s d n _ hs hd hwf hsize rfl hn
  rw [← State.lenNat_eq] at hn ⊢
  obtain ⟨t, hexec, ht⟩ := exec_sern_into hs hd hn
  obtain ⟨hbytes, _⟩ := Bool.and_eq_true_iff.mp hwf
  obtain ⟨hheader, hpayload, hckA, hckB, hpast⟩ :=
    Memory.read_writeAll_wireFrame hbytes s.regs ((List.range s.lenNat).map s.bulkByte)
  simp only [List.length_map, List.length_range] at hpayload hckA hckB hpast
  refine ⟨t, d.withFrame s, hexec, ht, Destination.writeFrame_wf hwf s (hsize ▸ hn), hsize, hheader,
    fun i hi => ?_, hckA, hckB, hpast⟩
  exact (hpayload i hi).trans (by simp [State.bulkByte])

/-- Settles O40: both are the packet's frame with the first `len` bytes of the buffer. -/
theorem bulkAndIncrementalAgree : Obligations.BulkAndIncrementalAgree := by
  unfold Obligations.BulkAndIncrementalAgree
  rintro s d n _ hs hc hd hwf _ hb rfl hcap hn
  rw [← State.lenNat_eq] at hcap hn ⊢
  obtain ⟨t, e, hexec, he, _, hframe⟩ := exec_sern_of_fits hs hd hwf hb hcap hn
  have hsent := sendAll_of_marker1 hs hc
  rw [State.covered_of_fits hb hcap] at hsent
  exact ⟨t, _, e, _, hexec, he, hsent, hframe⟩

end Sys2Proof
end

section
/-!
Loop back (41_deserialize R76, 42_serialize R90, 43_checksum R101, R103): what a block makes of a valid frame
that it can store, and the frame an updated packet is written as.
-/
namespace Sys2Proof.Machine

variable {s r : State}

/-- The state after a whole frame fed from the initial state: its registers, its payload in `PAY`, and the
completing answer (R75, R76). -/
def State.received (r : State) (p : PacketRegs) (ps : List Byte) : State :=
  { r with regs := p, pay := r.pay.writeAll 0 ps, cnt := BitVec.ofNat 16 ps.length,
           response := some 1#64 }

/-- The declared length of a received frame is its packet's. -/
theorem State.lenNat_received {p : PacketRegs} {ps : List Byte}
    (hlen : ps.length = p.lenLo.toNat + 256 * p.lenHi.toNat) :
    (r.received p ps).lenNat = ps.length :=
  (State.lenNat_eq _).trans hlen.symm

/-- The bytes covered are the header's and the payload fed, if the buffer held all of it. -/
theorem State.coveredBytes_received {p : PacketRegs} {ps : List Byte} (hwf : r.pay.wf = true)
    (hb : r.cfg.hasBuf = true) (hlen : ps.length = p.lenLo.toNat + 256 * p.lenHi.toNat)
    (hcap : ps.length ≤ r.cfg.cap) :
    (r.received p ps).coveredBytes = [p.cls, p.id, p.lenLo, p.lenHi] ++ ps := by
  have hcov : (r.received p ps).covered = (r.received p ps).lenNat :=
    State.covered_of_fits hb ((State.lenNat_received hlen).trans_le hcap)
  have hread : (List.range ps.length).map (r.received p ps).pay.read = ps :=
    Memory.map_read_writeAll hwf ps
  rw [State.coveredBytes_eq, hcov, State.lenNat_received hlen, hread]
  rfl

/-- A frame with the block's sentinels, a payload that its buffer holds and the pair of its covered bytes
completes on its last byte, and is then valid. -/
theorem runAll_feed_wireFrame_valid {p : PacketRegs} {ps : List Byte} (h : r.CodecReady)
    (hc : r.cur = .marker1) (hwf : r.pay.wf = true) (hb : r.cfg.hasBuf = true)
    (hm1 : p.m1 = r.cfg.m1) (hm2 : p.m2 = r.cfg.m2)
    (hlen : ps.length = p.lenLo.toNat + 256 * p.lenHi.toNat) (hcap : ps.length ≤ r.cfg.cap)
    (hpair : ckPair ([p.cls, p.id, p.lenLo, p.lenHi] ++ ps) = (p.ckA, p.ckB)) :
    runAll (feed (wireFrame p ps) ++ [.valid]) r =
      .next (List.replicate (ps.length + 7) (some 0#64) ++ [some 1#64, some 1#64],
        (r.received p ps).reply 1#64) := by
  have hfed := runAll_feed_frame h hc p.cls p.id p.lenLo p.lenHi p.ckA p.ckB ps
    (by rw [if_pos hb, ← hlen, min_eq_left hcap])
  rw [← hm1, ← hm2] at hfed
  have hvalid : exec .valid (r.received p ps) = .next ((r.received p ps).reply 1#64) :=
    exec_valid_of_stored ⟨⟨h.cfg_wf, h.no_fault⟩, h.target_codec, h.is_live⟩
      (State.ckFree_of_fits ((State.lenNat_received hlen).trans_le hcap))
      (by rw [State.coveredBytes_received hwf hb hlen hcap]; exact hpair)
  have hrun := runAll_append hfed (runAll_cons hvalid (runAll_nil _))
  rw [show [some 1#64, some 1#64] = [some 1#64] ++ [some 1#64] from rfl, ← List.append_assoc]
  exact hrun

end Sys2Proof.Machine

namespace Sys2Proof
open Sys2Proof.Machine

/-- Settles O41: `UPDATE` stores the pair of the bytes that `SERN` then writes, so the frame fed is one that
the receiver finds valid. -/
theorem loopbackReconstructsThePacket : Obligations.LoopbackReconstructsThePacket := by
  unfold Obligations.LoopbackReconstructsThePacket
  rintro s r d n _ hs hr hc hwf hsize hpay hbs hbr rfl hcaps hcapr hm1 hm2 hn
  rw [← State.lenNat_eq] at hcaps hcapr hn ⊢
  have hf : s.ckFree = false := State.ckFree_of_fits hcaps
  have hlen : (s.payPrefix s.lenNat).length = s.lenNat := by simp [State.payPrefix]
  have hcovered : s.coveredBytes =
      [s.regs.cls, s.regs.id, s.regs.lenLo, s.regs.lenHi] ++ s.payPrefix s.lenNat := by
    rw [State.coveredBytes, State.covered_of_fits hbs hcaps]
  obtain ⟨t, e, hexec, he, hregs, hframe⟩ := exec_sern_of_fits
    (((hs.withPair (ckPair s.coveredBytes)).reply respondNone).withDst (some d)) rfl hwf hbs hcaps hn
  have hrun := runAll_feed_wireFrame_valid (p := (s.withPair (ckPair s.coveredBytes)).regs) hr hc hpay
    hbr hm1 hm2 (hlen.trans s.lenNat_eq) (hlen.trans_le hcapr) (by rw [hcovered]; rfl)
  rw [hlen] at hrun
  refine ⟨_, t, e, (r.received (s.withPair (ckPair s.coveredBytes)).regs (s.payPrefix s.lenNat)).reply 1#64,
    exec_update_of_not_free hs hf, hexec, he, ?_, hregs.symm, fun k hk => ?_⟩
  · exact (congrArg (fun ds => runAll (feed ds ++ [.valid]) r) hframe).trans hrun
  · have hread := Memory.read_writeAll_of_inside hpay 0 (s.payPrefix s.lenNat) k (hlen.symm ▸ hk)
    simpa [State.received, State.payPrefix] using hread

end Sys2Proof
end
